-- ==== Sys2Proof/Word.lean ====
section
/-!
DEFINITION. The word types of the link block: the 64-bit operation word (30_encoding.md rule R70) and the byte, the unit of
every address space and of every transaction (20_memory.md rules R50, R52, R58).
-/

namespace Sys2Proof

/-- The 64-bit operation word the host hands to the block (rule R70). -/
abbrev Word := BitVec 64

/-- A byte: a PMEM cell, a property byte, a FIFO byte. -/
abbrev Byte := BitVec 8

end Sys2Proof
end

