-- ==== Sys2Proof/Syntax.lean ====
section
/-!
DEFINITION. The operation set: `Instr`, one constructor per row of spec/opcode_table.json (30_encoding.md rules R73, R74),
the names of the modulation variants (43_link_control.md rule R180) and of the framing modes (44_fifo_transmit.md rule
R201), and the assembler's lines (rules R79, R80).
-/

namespace Sys2Proof

/-- The ten operations, each operand at the width of rule R73. A signed operand (`ADJ`, `ADJ8`) is held as its two's
complement field; its value is its `toInt`. -/
inductive Instr where
  /-- RESET, opcode 0x01, format N (rule R105). -/
  | reset
  /-- CONFIGURE, opcode 0x02, format N (rule R106). -/
  | configure
  /-- VERIFY, opcode 0x03, format N (rule R107). -/
  | verify
  /-- SET_FREQUENCY, opcode 0x10, format B (rule R133). -/
  | setFrequency (channel : BitVec 8)
  /-- APPLY_FREQUENCY, opcode 0x11, format F (rule R138). -/
  | applyFrequency (freqHz : BitVec 32) (adj : BitVec 24)
  /-- SET_DATA_RATE, opcode 0x12, format H (rule R165). -/
  | setDataRate (bps : BitVec 16)
  /-- SET_MODULATION, opcode 0x13, format B (rule R181). -/
  | setModulation (mode : BitVec 8)
  /-- SET_POWER, opcode 0x14, format B (rule R182). -/
  | setPower (level : BitVec 8)
  /-- ADJUST_CRYSTAL, opcode 0x15, format B (rule R184). -/
  | adjustCrystal (adj : BitVec 8)
  /-- TRANSMIT, opcode 0x20, format T (rule R207). -/
  | transmit (paddr : BitVec 24) (len : BitVec 16) (framecount : BitVec 16)
deriving DecidableEq, Repr

/-- The modulation variants of rule R180, in the source's list order. -/
inductive Modulation where
  | fsk2Packet
  | cwPn9
  | fsk2Pn9
  | fsk2LegacyPacket
deriving DecidableEq, Repr

/-- The three framing modes of rule R201. -/
inductive Framing where
  | repeat200
  | repeat1000
  | single
deriving DecidableEq, Repr

/-- The mode operand of an assembled SET_MODULATION: a number or one of the four symbolic names (rule R79). -/
inductive ModeOperand where
  | code (n : Nat)
  | name (m : Modulation)
deriving DecidableEq, Repr

/-- One line of the assembler (rule R79), its operands the numbers written on it, in or out of range, and the one
pseudo-operation `BOOT` (rule R80). -/
inductive Line where
  | reset
  | configure
  | verify
  | setFrequency (channel : Nat)
  | applyFrequency (freqHz : Nat) (adj : Int)
  | setDataRate (bps : Nat)
  | setModulation (mode : ModeOperand)
  | setPower (level : Nat)
  | adjustCrystal (adj : Int)
  | transmit (paddr len framecount : Nat)
  | boot
deriving DecidableEq, Repr

end Sys2Proof
end

