-- ==== Sys2Proof/Decode.lean ====
section
/-!
DEFINITION. The decoder of 30_encoding.md rule R75, total on all words and rejecting by name, the encoder of rule R81
written from the same format table (rules R71 to R74), and the byte order of a written word (rule R70).
-/

namespace Sys2Proof

/-- The five formats of rule R72. -/
inductive Format where
  | n | b | h | f | t
deriving DecidableEq, Repr

/-- The ten opcodes of rule R74. -/
inductive Opcode where
  | reset | configure | verify
  | setFrequency | applyFrequency | setDataRate | setModulation | setPower | adjustCrystal
  | transmit
deriving DecidableEq, Repr

/-- Why a word is illegal (rule R77): each is safe, since the spec defines what the block does with it. -/
inductive Illegal where
  /-- The opcode is none of the ten of rule R74. -/
  | unknownOpcode
  /-- A reserved bit of the opcode's format is set (rule R76). -/
  | reservedBits
deriving DecidableEq, Repr

/-- What decoding answers: `Op(opc, fields)` or `Illegal` (rule R75). -/
inductive Decoded where
  | op (i : Instr)
  | illegal (why : Illegal)
deriving DecidableEq, Repr

/-- The opcode byte of each operation (rule R74). -/
def Opcode.byte : Opcode → Byte
  | .reset => 0x01#8
  | .configure => 0x02#8
  | .verify => 0x03#8
  | .setFrequency => 0x10#8
  | .applyFrequency => 0x11#8
  | .setDataRate => 0x12#8
  | .setModulation => 0x13#8
  | .setPower => 0x14#8
  | .adjustCrystal => 0x15#8
  | .transmit => 0x20#8

/-- The opcode a byte selects, or none for the 246 others (rules R74, R77). -/
def Opcode.ofByte (b : Byte) : Option Opcode :=
  if b = 0x01#8 then some .reset
  else if b = 0x02#8 then some .configure
  else if b = 0x03#8 then some .verify
  else if b = 0x10#8 then some .setFrequency
  else if b = 0x11#8 then some .applyFrequency
  else if b = 0x12#8 then some .setDataRate
  else if b = 0x13#8 then some .setModulation
  else if b = 0x14#8 then some .setPower
  else if b = 0x15#8 then some .adjustCrystal
  else if b = 0x20#8 then some .transmit
  else none

/-- The format of each opcode (rule R74). -/
def Opcode.format : Opcode → Format
  | .reset => .n
  | .configure => .n
  | .verify => .n
  | .setFrequency => .b
  | .applyFrequency => .f
  | .setDataRate => .h
  | .setModulation => .b
  | .setPower => .b
  | .adjustCrystal => .b
  | .transmit => .t

/-- `OPC = w[63:56]` (rule R71). -/
def fieldOpc (w : Word) : Byte := w.extractLsb' 56 8
/-- `B8 = w[7:0]` (rule R72). -/
def fieldB8 (w : Word) : BitVec 8 := w.extractLsb' 0 8
/-- `H16 = w[15:0]` (rule R72). -/
def fieldH16 (w : Word) : BitVec 16 := w.extractLsb' 0 16
/-- `FREQ_HZ = w[31:0]` (rule R72). -/
def fieldFreqHz (w : Word) : BitVec 32 := w.extractLsb' 0 32
/-- `ADJ24 = w[55:32]` (rule R72). -/
def fieldAdj24 (w : Word) : BitVec 24 := w.extractLsb' 32 24
/-- `PADDR = w[55:32]` (rule R72). -/
def fieldPaddr (w : Word) : BitVec 24 := w.extractLsb' 32 24
/-- `FRAMECOUNT = w[31:16]` (rule R72). -/
def fieldFramecount (w : Word) : BitVec 16 := w.extractLsb' 16 16
/-- `LEN = w[15:0]` (rule R72). -/
def fieldLen (w : Word) : BitVec 16 := w.extractLsb' 0 16

/-- Whether every reserved bit of the format is zero (rules R72, R75, R76). -/
def reservedClear (fmt : Format) (w : Word) : Bool :=
  match fmt with
  | .n => decide (w.extractLsb' 0 56 = 0#56)
  | .b => decide (w.extractLsb' 8 48 = 0#48)
  | .h => decide (w.extractLsb' 16 40 = 0#40)
  | .f => true
  | .t => true

/-- The operation an opcode names with the operands of its format (rule R73). -/
def Opcode.operation (o : Opcode) (w : Word) : Instr :=
  match o with
  | .reset => .reset
  | .configure => .configure
  | .verify => .verify
  | .setFrequency => .setFrequency (fieldB8 w)
  | .applyFrequency => .applyFrequency (fieldFreqHz w) (fieldAdj24 w)
  | .setDataRate => .setDataRate (fieldH16 w)
  | .setModulation => .setModulation (fieldB8 w)
  | .setPower => .setPower (fieldB8 w)
  | .adjustCrystal => .adjustCrystal (fieldB8 w)
  | .transmit => .transmit (fieldPaddr w) (fieldLen w) (fieldFramecount w)

/-- `decode(w)` of rule R75: the opcode first, then the reserved bits. -/
def decode (w : Word) : Decoded :=
  match Opcode.ofByte (fieldOpc w) with
  | none => .illegal .unknownOpcode
  | some o => if reservedClear o.format w then .op (o.operation w) else .illegal .reservedBits

/-- The opcode of an operation (rule R74). -/
def Instr.opcode : Instr → Opcode
  | .reset => .reset
  | .configure => .configure
  | .verify => .verify
  | .setFrequency _ => .setFrequency
  | .applyFrequency _ _ => .applyFrequency
  | .setDataRate _ => .setDataRate
  | .setModulation _ => .setModulation
  | .setPower _ => .setPower
  | .adjustCrystal _ => .adjustCrystal
  | .transmit _ _ _ => .transmit

/-- The operand bits `w[55:0]` of an operation, reserved bits zero (rules R72, R76). -/
def Instr.operandBits : Instr → BitVec 56
  | .reset => 0#56
  | .configure => 0#56
  | .verify => 0#56
  | .setFrequency channel => 0#48 ++ channel
  | .applyFrequency freqHz adj => adj ++ freqHz
  | .setDataRate bps => 0#40 ++ bps
  | .setModulation mode => 0#48 ++ mode
  | .setPower level => 0#48 ++ level
  | .adjustCrystal adj => 0#48 ++ adj
  | .transmit paddr len framecount => paddr ++ framecount ++ len

/-- The operation word of an operation: the opcode in the top byte, the operand fields below it (rule R81). -/
def encode (i : Instr) : Word := i.opcode.byte ++ i.operandBits

/-- Two's complement, the value of a signed operand (rule R73): `B8 - 256*B8[7]`, `ADJ24 - 2^24*ADJ24[23]`. -/
def signedOperand (w : Nat) (v : BitVec w) : Int := v.toInt

/-- The word written as these bytes, most significant first (rule R70); none unless there are exactly eight. -/
def wordOfBytes : List Byte → Option Word
  | [b7, b6, b5, b4, b3, b2, b1, b0] => some (b7 ++ b6 ++ b5 ++ b4 ++ b3 ++ b2 ++ b1 ++ b0)
  | _ => none

/-- The eight bytes a word is written as, most significant first (rule R70). -/
def bytesOfWord (w : Word) : List Byte :=
  [w.extractLsb' 56 8, w.extractLsb' 48 8, w.extractLsb' 40 8, w.extractLsb' 32 8,
   w.extractLsb' 24 8, w.extractLsb' 16 8, w.extractLsb' 8 8, w.extractLsb' 0 8]

/-- Decoding of a word written as bytes: none where the bytes are not one whole word (rule R70: there is one length). -/
def decodeBytes (bs : List Byte) : Option Decoded := (wordOfBytes bs).map decode

/-- The operation word whose bits, counted from its least significant bit, are the `nbits` low bits of `w`. -/
def tableWord (nbits w : Nat) : Word := BitVec.ofNat 64 (w % 2 ^ nbits)

/-- The operation a decoding answers, if it is not illegal. -/
def Decoded.instr? : Decoded → Option Instr
  | .op i => some i
  | .illegal _ => none

/-- The operation the decoder reads from the bits of spec/opcode_table.json: the word is laid out as the bytes of rule R70
and decoded. -/
def decodeTableWord (nbits w : Nat) : Option Instr :=
  (decodeBytes (bytesOfWord (tableWord nbits w))).bind Decoded.instr?

end Sys2Proof
end

