-- ==== Sys2Proof/Config.lean ====
section
/-!
DEFINITION. What an implementation of the block fixes: the parameters of 00_scope.md rule R8, the constraints a
configuration must meet (rules R8, R51; 93_implementation_defined.md I19, I20), and the constants with no body that stand
for what the spec leaves open: the configuration actually installed (log entry 1) and the transport's free draws (log
entry 2).
-/

namespace Sys2Proof

/-- `FRAC_SCALE_BITS`: the fraction is scaled by `2^19` (rule R8). -/
abbrev fracScaleBits : Nat := 19

/-- `FREQ_WORD_BITS`: the fractional frequency word has 28 bits (rule R8). -/
abbrev freqWordBits : Nat := 28

/-- `DR_REG_BITS`: the data-rate register has 24 bits (rule R8). -/
abbrev drRegBits : Nat := 24

/-- `PMEM_ADDR_BITS`: the payload memory has 24-bit addresses (rule R8, decision D24). -/
abbrev pmemAddrBits : Nat := 24

/-- The number of bytes of PMEM, `2^PMEM_ADDR_BITS` (20_memory.md rule R50). -/
abbrev pmemSize : Nat := 2 ^ pmemAddrBits

/-- One entry `(group, offset, count, value_bytes)` of `CFG_TABLE` (20_memory.md rule R51). -/
structure CfgEntry where
  group  : Byte
  offset : Byte
  count  : Byte
  value  : List Byte
deriving DecidableEq, Repr, Inhabited

/-- An entry is well-formed when `count` is the number of its value bytes; `count = 0` is allowed (rule R51, I20). -/
def CfgEntry.wf (e : CfgEntry) : Bool := decide (e.count.toNat = e.value.length)

/-- The implementation parameters of rule R8, under the spec's names. A field with a default is one for which rule R8 gives
a value (the observed band, D43, and the reference divisor, D7; log entry 19); every other one is OPEN. -/
structure Params where
  /-- `CHANNEL_LIMIT_UPPER`, the clamp of SET_FREQUENCY. -/
  channelLimitUpper : Byte
  /-- `BASE_FREQ_HZ`, informative only (rule R132). -/
  baseFreqHz : Nat
  /-- `STEP_KHZ`, informative only (rule R132). -/
  stepKhz : Nat
  /-- `FREQ_MIN_HZ`. -/
  freqMinHz : BitVec 32 := 400000000#32
  /-- `FREQ_MAX_HZ`. -/
  freqMaxHz : BitVec 32 := 406000000#32
  /-- `BAND_MID_HZ`, the first frequency of the upper band. -/
  bandMidHz : BitVec 32 := 403000000#32
  /-- `INT_LOW`. -/
  intLow : Byte := 61#8
  /-- `INT_HIGH`. -/
  intHigh : Byte := 62#8
  /-- `REF_DIVISOR_HZ` (D7). -/
  refDivisorHz : Nat := 6500000
  freqGroup  : Byte
  freqOffset : Byte
  ncoGroup   : Byte
  ncoOffset  : Byte
  drGroup    : Byte
  drOffset   : Byte
  /-- `XTAL_FREQ_HZ`, the crystal reference of the data-rate computation. -/
  xtalFreqHz : Nat
  modGroup   : Byte
  modOffset  : Byte
  modByteFsk2Packet : Byte
  modByteCwPn9      : Byte
  modByteFsk2Pn9    : Byte
  modByteFsk2Legacy : Byte
  pwrGroup   : Byte
  pwrOffset  : Byte
  trimGroup  : Byte
  trimOffset : Byte
  /-- `BASE_TRIM`. -/
  baseTrim : Byte
  /-- `TRIM_MAX`. -/
  trimMax : Byte
  /-- `EXPECTED_PART_ID`. -/
  expectedPartId : BitVec 16
  /-- `CFG_TABLE` (rule R51). -/
  cfgTable : List CfgEntry
  /-- `FIFO_CAPACITY`. -/
  fifoCapacity : Nat
  /-- `CHUNK_SIZE`, the free space every FIFO wait asks for and the size of a chunk write. -/
  chunkSize : Nat
  /-- `MAX_PACKET_LEN`. -/
  maxPacketLen : BitVec 16
  /-- `POLL_LIMIT`, the number of short polls that ends one FIFO wait. -/
  pollLimit : Nat
  /-- `START_TX_CONDITION`. -/
  startTxCondition : Byte
  /-- `DEFAULT_CHANNEL`, the power-on value of `CUR_CHANNEL` (D34). -/
  defaultChannel : Byte
  /-- `DEFAULT_DATA_RATE`, the power-on value of `CUR_DATA_RATE` (D34). -/
  defaultDataRate : BitVec 16
deriving DecidableEq, Repr

/-- The constraints of rule R8 and of rule R51; 93_implementation_defined.md I19 and I20 refuse a configuration that breaks
one. -/
def Params.wf (p : Params) : Bool :=
  decide (p.freqMinHz ≤ p.freqMaxHz) &&
  decide (1 ≤ p.intLow.toNat) &&
  decide (1 ≤ p.intHigh.toNat) &&
  decide (0 < p.refDivisorHz) &&
  decide (0 < p.xtalFreqHz) &&
  decide (p.baseTrim ≤ p.trimMax) &&
  decide (p.cfgTable.length ≤ 65535) &&
  p.cfgTable.all CfgEntry.wf &&
  decide (1 ≤ p.fifoCapacity) &&
  decide (p.fifoCapacity ≤ 255) &&
  decide (1 ≤ p.chunkSize) &&
  decide (p.chunkSize ≤ p.fifoCapacity) &&
  decide (1 ≤ p.maxPacketLen.toNat) &&
  decide (1 ≤ p.pollLimit) &&
  decide (p.defaultChannel ≤ p.channelLimitUpper)

/-- The reference configuration of 95_test_vectors.md section 0 (D39, non-normative). It shows that a configuration exists
and is the one the spec's test vectors are stated for; no definition of the machine depends on it. Section 0 gives no
`BASE_FREQ_HZ` and no `STEP_KHZ` (no operation reads them, rule R132); they stand here as 0. -/
def Params.reference : Params where
  channelLimitUpper := 40#8
  baseFreqHz := 0
  stepKhz := 0
  freqGroup := 0x40#8
  freqOffset := 0x00#8
  ncoGroup := 0x20#8
  ncoOffset := 0x06#8
  drGroup := 0x20#8
  drOffset := 0x03#8
  xtalFreqHz := 26000000
  modGroup := 0x20#8
  modOffset := 0x00#8
  modByteFsk2Packet := 0x02#8
  modByteCwPn9 := 0x10#8
  modByteFsk2Pn9 := 0x12#8
  modByteFsk2Legacy := 0x03#8
  pwrGroup := 0x22#8
  pwrOffset := 0x01#8
  trimGroup := 0x00#8
  trimOffset := 0x00#8
  baseTrim := 0x40#8
  trimMax := 127#8
  expectedPartId := 0x4464#16
  cfgTable := [⟨0x00#8, 0x00#8, 1#8, [0x52#8]⟩, ⟨0x20#8, 0x00#8, 1#8, [0x02#8]⟩]
  fifoCapacity := 64
  chunkSize := 32
  maxPacketLen := 8191#16
  pollLimit := 3
  startTxCondition := 0x00#8
  defaultChannel := 0#8
  defaultDataRate := 2500#16

/-- A configuration: parameters that meet every constraint. A configuration that breaks one cannot be built, which is how
the model refuses it (I19, I20; log entry 3). The default only shows that the type has an element. -/
structure Config where
  params : Params := Params.reference
  wf     : params.wf = true := by decide
deriving DecidableEq, Repr, Inhabited

/-- The configuration made of given parameters, or nothing where a constraint of rule R8 or R51 is broken (I19, I20). -/
def Config.ofParams (p : Params) : Option Config :=
  if h : p.wf = true then some ⟨p, h⟩ else none

/-- The configuration the block is built with: fixed before power-on (70_reset_and_hazards.md rule R264) and OPEN, so it has
no body (DESIGN CHOICE, log entry 1). Only `State.reset` reads it. -/
opaque Config.installed : Config

/-- Whether the transport answers the `n`-th transaction with success: a free draw of 20_memory.md rule R57 (D41), so it has
no body (log entry 2). -/
opaque Config.transportOk : Nat → Bool

/-- Byte `i` of a successful answer to the `n`-th transaction: a free draw of rule R57, so it has no body (log entry 2). -/
opaque Config.transportByte : Nat → Nat → Byte

end Sys2Proof
end

