-- ==== Sys2Proof/Machine/State.lean ====
section
/-!
DEFINITION. The state of the block (10_state.md rules R20 to R35) with everything the model holds beside it: the installed
parameters, the payload memory (20_memory.md rule R50), the words the host still has to issue (70_reset_and_hazards.md rule
R271), the transport's scripted answers (rule R57) and the transaction trace (rule R53). Plain data throughout.
-/

namespace Sys2Proof.Machine

/-- `LC`, the lifecycle state (rule R23). The encodings 5, 6 and 7 are never held (I10) and have no constructor. -/
inductive Lc where
  | unreset
  | resetDone
  | configuring
  | ready
  | halted
deriving DecidableEq, Repr

/-- `STATUS`, the status code of the last operation that ended (rules R26, R230). The codes 14..255 are never written (I11)
and have no constructor. -/
inductive Status where
  | ok
  | transportError
  | hardwareMismatch
  | frequencyOutOfRange
  | invalidModulation
  | payloadTooLarge
  | fifoTimeout
  | notReady
  | halted
  | dataRateOutOfRange
  | trimOutOfRange
  | invalidFraming
  | bufferOutOfRange
  | illegalOperation
deriving DecidableEq, Repr

/-- The seven transaction kinds, the block's whole output (20_memory.md rule R53). -/
inductive Transaction where
  | reset
  | readPartInfo
  | getProperty (group offset count : Byte)
  | setProperty (group offset count : Byte) (bytes : List Byte)
  | writeFifo (bytes : List Byte)
  | readFifoFreeSpace
  | startTx (channel condition : Byte) (lengthOrMode : BitVec 16)
deriving DecidableEq, Repr

/-- The transport's answer to one transaction (rule R54): failure, or success with the response bytes of rule R53, most
significant first (rule R55). -/
inductive Response where
  | fail
  | ok (bytes : List Byte)
deriving DecidableEq, Repr

/-- One entry of the transaction trace: what was issued and how it was answered; a failed transaction still appears (rule
R54). -/
structure Event where
  tx     : Transaction
  answer : Response
deriving DecidableEq, Repr

/-- What a running TRANSMIT holds of its operands, and `LEN_CODE` (rule R30). -/
structure TxJob where
  paddr   : BitVec 24
  len     : BitVec 16
  lenCode : BitVec 16
deriving DecidableEq, Repr

/-- The hidden sequencer state (rules R21, R30): which transaction of the running operation comes next, with what the
operation holds until it ends. `idle` is `BUSY = 0`; every other position is `BUSY = 1` (log entry 5). -/
inductive Sequencer where
  /-- No operation is running. -/
  | idle
  /-- RESET: its `TxReset` comes next. -/
  | reset
  /-- CONFIGURE: the `TxSetProperty` of entry `index` comes next. -/
  | configure (index : Nat)
  /-- VERIFY: its `TxReadPartInfo` comes next. -/
  | verify
  /-- APPLY_FREQUENCY, SET_MODULATION, SET_POWER or ADJUST_CRYSTAL: its one property write comes next. -/
  | property (group offset : Byte) (bytes : List Byte)
  /-- SET_DATA_RATE: its read-back comes next. -/
  | dataRateRead (bps : BitVec 16)
  /-- SET_DATA_RATE: its write comes next; `readBack` is the four read-back bytes, big-endian. -/
  | dataRateWrite (bps : BitVec 16) (readBack : BitVec 32)
  /-- TRANSMIT: the initial write comes next. -/
  | txFirst (job : TxJob)
  /-- TRANSMIT: a free-space poll comes next; `sent` is `SENT`, `polls` is `POLLS`. -/
  | txPoll (job : TxJob) (sent polls : Nat)
  /-- TRANSMIT: the write of the next chunk comes next. -/
  | txChunk (job : TxJob) (sent : Nat)
  /-- TRANSMIT: the start-transmit comes next. -/
  | txStart (job : TxJob)
deriving DecidableEq, Repr

/-- PMEM (rule R50) as its listed bytes, in rising order of address. -/
abbrev Memory := List Host.Cell

/-- What an address of PMEM that is not listed reads as (DESIGN CHOICE, log entry 7: the spec gives no initial contents). -/
def Memory.unlisted : Byte := 0#8

/-- The canonical form from address `lo` on: addresses strictly rising, inside PMEM, and no byte equal to what an unlisted
address reads as. -/
def Memory.wfFrom : Nat → Memory → Bool
  | _, [] => true
  | lo, (a, v) :: rest =>
    decide (lo ≤ a) && decide (a < pmemSize) && decide (v ≠ Memory.unlisted) && Memory.wfFrom (a + 1) rest

/-- The canonical form of a memory. -/
def Memory.wf (m : Memory) : Bool := Memory.wfFrom 0 m

/-- The state of one block instance and of what stands around it. -/
structure State where
  /-- The parameters of the instance, fixed for its life (rule R33); the model's own field (log entry 1). -/
  cfg : Config
  /-- `LC` (rule R23). -/
  lc : Lc
  /-- `CUR_CHANNEL` (rule R24). -/
  curChannel : BitVec 8
  /-- `CUR_DATA_RATE` (rule R25). -/
  curDataRate : BitVec 16
  /-- `STATUS` (rule R26). -/
  status : Status
  /-- `ERR_INDEX` (rule R27). -/
  errIndex : BitVec 16
  /-- `BUSY` and the hidden sequencer state (rules R21, R22, R30). -/
  seq : Sequencer
  /-- PMEM, owned by the host and only read by the block (rule R50). -/
  pmem : Memory
  /-- The operation words the host has still to issue, the next one first (rules R70, R271; log entry 6). -/
  program : List Word
  /-- The transport's next answers, as far as they are given (rule R57); the model's own field (log entry 2). -/
  answers : List Response
  /-- The transaction trace, oldest first (rule R53); the model's observation (rule R242, log entry 8). -/
  trace : List Event
deriving DecidableEq, Repr

/-- Why a step stops with a fault. -/
inductive Fault where
  /-- `MemRead` names bytes outside PMEM (00_scope.md rule R12 requires `addr + n <= 2^24`). Raised by a FIFO write of the
  sequencer; safe: no TRANSMIT that passed the bound check of rule R202 raises it (log entry 9). -/
  | pmemOutOfRange (addr n : Nat)
deriving DecidableEq, Repr

/-- Why a step is refused. -/
inductive Refusal where
  /-- The operation has no meaning in this model yet; raised by exec's refused arms only; safe. -/
  | notModelled (mnemonic : String)
  /-- The host issued an operation while `BUSY = 1`; it has no such move (rule R264, I18). Raised by every operation's
  meaning in a busy state; safe. -/
  | issuedWhileBusy
  /-- The host changed a byte of a payload that a running TRANSMIT borrows; it has no such move (rules R65, R264, I18).
  Raised by `State.hostWrite`; safe. -/
  | payloadBorrowed
deriving DecidableEq, Repr

/-- The state after power-on of a block built with the configuration `cfg` (rules R35, R260; log entry 17). -/
def State.powerOn (cfg : Config) : State where
  cfg := cfg
  lc := .unreset
  curChannel := cfg.params.defaultChannel
  curDataRate := cfg.params.defaultDataRate
  status := .ok
  errIndex := 0#16
  seq := .idle
  pmem := []
  program := []
  answers := []
  trace := []

/-- The machine right after power-on reset, with the configuration that is installed in it (rules R35, R260). -/
def State.reset : State := State.powerOn Config.installed

end Sys2Proof.Machine
end

