-- ==== Sys2Proof/Machine/Ops.lean ====
section
/-!
DEFINITION. The named operations over the state: the payload memory (`MemRead`, 00_scope.md rule R12), one update per
register, `Transact` (rule R13), `raise` and `complete` (rule R14), the lifecycle guard (40_lifecycle.md rule R102), and
the fetch of the next operation word (30_encoding.md rule R70).
-/

namespace Sys2Proof.Machine

/-! ### Payload memory -/

/-- The byte at an address of PMEM. -/
def Memory.read : Memory → Nat → Byte
  | [], _ => Memory.unlisted
  | (b, v) :: rest, a => if a = b then v else Memory.read rest a

/-- The memory with one byte replaced; writing what an unlisted address reads as removes the entry. -/
def Memory.write : Memory → Nat → Byte → Memory
  | [], a, v => if v = Memory.unlisted then [] else [(a, v)]
  | (b, x) :: rest, a, v =>
    if a < b then
      if v = Memory.unlisted then (b, x) :: rest else (a, v) :: (b, x) :: rest
    else if a = b then
      if v = Memory.unlisted then rest else (a, v) :: rest
    else (b, x) :: Memory.write rest a v

/-- The `n` bytes from `addr` on, in ascending address order. -/
def Memory.bytes (m : Memory) (addr n : Nat) : List Byte :=
  (List.range n).map fun i => m.read (addr + i)

/-- `MemRead(addr, n)` (rule R12): the bytes where `addr + n <= 2^PMEM_ADDR_BITS`, nothing elsewhere. -/
def memRead (m : Memory) (addr n : Nat) : Option (List Byte) :=
  if addr + n ≤ pmemSize then some (m.bytes addr n) else none

/-! ### One update per register -/

/-- `LC <- v`. -/
def State.setLc (v : Lc) (s : State) : State := { s with lc := v }
/-- `CUR_CHANNEL <- v`. -/
def State.setChannel (v : BitVec 8) (s : State) : State := { s with curChannel := v }
/-- `CUR_DATA_RATE <- v`. -/
def State.setDataRate (v : BitVec 16) (s : State) : State := { s with curDataRate := v }
/-- The sequencer moves to `v`; `BUSY` is 1 unless `v` is `idle`. -/
def State.setSeq (v : Sequencer) (s : State) : State := { s with seq := v }
/-- The host's payload memory becomes `v`. -/
def State.setPmem (v : Memory) (s : State) : State := { s with pmem := v }
/-- The words the host has still to issue become `v`. -/
def State.setProgram (v : List Word) (s : State) : State := { s with program := v }

/-! ### Ending an operation -/

/-- Every end of an operation: `STATUS` and `ERR_INDEX` are written and `BUSY <- 0` (rules R14, R233). -/
def State.finish (st : Status) (info : BitVec 16) (s : State) : State :=
  { s with status := st, errIndex := info, seq := .idle }

/-- `complete()` (rule R14). -/
def State.complete (s : State) : State := s.finish .ok 0#16

/-- `raise <Status>()` (rules R14, R233): this is all that an error does. The block saves nothing else, takes no vector and
changes no mode, and there is no return: the next word the host issues is the return (rule R234). -/
def State.raise (st : Status) (s : State) : State := s.finish st 0#16

/-- `raise <Status>(info)` (rule R14): the same, with the failing index in `ERR_INDEX`. -/
def State.raiseAt (st : Status) (info : BitVec 16) (s : State) : State := s.finish st info

/-- A fatal error (60_exceptions.md rule R236): `LC <- HALTED` before the operation ends. -/
def State.raiseFatal (st : Status) (s : State) : State := (s.setLc .halted).raise st

/-! ### Transactions -/

/-- The number read from bytes, most significant first (rule R55). -/
def beNat (bytes : List Byte) : Nat := bytes.foldl (fun acc b => acc * 256 + b.toNat) 0

/-- A u16 as bytes, most significant first (rule R55). -/
def u16Bytes (v : BitVec 16) : List Byte := [v.extractLsb' 8 8, v.extractLsb' 0 8]

/-- The request fields of a transaction as the block puts them in, in the order of rule R53's table, each multi-byte value
most significant byte first (rule R55; DEDUCED order of the fields, log entry 21). -/
def Transaction.requestBytes : Transaction → List Byte
  | .reset => []
  | .readPartInfo => []
  | .getProperty group offset count => [group, offset, count]
  | .setProperty group offset count bytes => group :: offset :: count :: bytes
  | .writeFifo bytes => bytes
  | .readFifoFreeSpace => []
  | .startTx channel condition lengthOrMode => channel :: condition :: u16Bytes lengthOrMode

/-- How many bytes a successful answer carries: the response column of rule R53, two bytes for the u16 `part` and one for
the u8 `free`. -/
def Transaction.responseLength : Transaction → Nat
  | .reset => 0
  | .readPartInfo => 2
  | .getProperty _ _ count => count.toNat
  | .setProperty _ _ _ _ => 0
  | .writeFifo _ => 0
  | .readFifoFreeSpace => 1
  | .startTx _ _ _ => 0

/-- Exactly `k` response bytes of transaction number `n`: the scripted ones as far as they go, then free draws. -/
def responseBytes (n k : Nat) (script : List Byte) : List Byte :=
  (List.range k).map fun i => script.getD i (Config.transportByte n i)

/-- The transport's answer to transaction number `n` (rules R54, R57): the scripted one where there is one, else a free
draw of success or failure and of every response byte (log entry 2). -/
def respond (t : Transaction) (n : Nat) (script : Option Response) : Response :=
  match script with
  | some .fail => .fail
  | some (.ok bytes) => .ok (responseBytes n t.responseLength bytes)
  | none => if Config.transportOk n then .ok (responseBytes n t.responseLength []) else .fail

/-- How the transport answers the transaction `t` when the block issues it in the state `s`. -/
def State.answerTo (s : State) (t : Transaction) : Response := respond t s.trace.length s.answers.head?

/-- The state after `Transact(t)` (rule R13): the trace has grown by `t` and its answer. -/
def State.transact (t : Transaction) (s : State) : State :=
  { s with trace := s.trace ++ [⟨t, s.answerTo t⟩], answers := s.answers.tail }

/-! ### The lifecycle guard -/

/-- Which row of the table of rule R101 an operation belongs to. -/
inductive GuardClass where
  | reset
  | configure
  | verify
  | needsReady
deriving DecidableEq, Repr

/-- `guard(op)` of rule R102: the status that ends the operation, or none where it may run. -/
def lifecycleGuard (g : GuardClass) (lc : Lc) : Option Status :=
  match g, lc with
  | .reset, _ => none
  | _, .halted => some .halted
  | .configure, .resetDone => none
  | .configure, .configuring => none
  | .configure, .ready => none
  | .verify, .configuring => none
  | .verify, .ready => none
  | .needsReady, .ready => none
  | _, _ => some .notReady

/-! ### The request port -/

/-- `BUSY` (rule R22). -/
def State.busy (s : State) : Bool := decide (s.seq ≠ .idle)

/-- The next operation word and the state once the block has taken it (rule R70); none when the host has none to issue. -/
def State.fetch (s : State) : Option (Word × State) :=
  match s.program with
  | [] => none
  | w :: rest => some (w, s.setProgram rest)

end Sys2Proof.Machine
end

