-- ==== Sys2Proof/Machine/Operands.lean ====
section
/-!
DEFINITION. What the operations make of their operands before any transaction: the channel clamp (41_synthesizer.md rule
R133), the modulation byte (43_link_control.md rule R180), the trim value (rule R183), the framing constant
(44_fifo_transmit.md rule R201), and the sizes of the FIFO sequence (rules R203, R205, R209).
-/

namespace Sys2Proof.Machine

/-- `min(CHANNEL, CHANNEL_LIMIT_UPPER)` (rule R133). -/
def clampChannel (limit channel : BitVec 8) : BitVec 8 := if channel ≤ limit then channel else limit

/-- The modulation variant a mode code selects; none for 4..255 (rule R180). -/
def modulationOf (mode : BitVec 8) : Option Modulation :=
  if mode = 0#8 then some .fsk2Packet
  else if mode = 1#8 then some .cwPn9
  else if mode = 2#8 then some .fsk2Pn9
  else if mode = 3#8 then some .fsk2LegacyPacket
  else none

/-- The property byte of a modulation variant (rule R180). -/
def modulationByte (p : Params) : Modulation → Byte
  | .fsk2Packet => p.modByteFsk2Packet
  | .cwPn9 => p.modByteCwPn9
  | .fsk2Pn9 => p.modByteFsk2Pn9
  | .fsk2LegacyPacket => p.modByteFsk2Legacy

/-- `T = BASE_TRIM + ADJ8`, an exact integer (rule R183). -/
def trimValue (p : Params) (adj : BitVec 8) : Int := (p.baseTrim.toNat : Int) + signedOperand 8 adj

/-- The framing mode a repeat count selects; none for any count but 200, 1000 and 1 (rule R201). -/
def framingOf (framecount : BitVec 16) : Option Framing :=
  if framecount = 200#16 then some .repeat200
  else if framecount = 1000#16 then some .repeat1000
  else if framecount = 1#16 then some .single
  else none

/-- The `length_or_mode` constant of a framing mode (rule R201; UNVERIFIED numbers, log entry 14). -/
def framingCode : Framing → BitVec 16
  | .repeat200 => 0x1B85#16
  | .repeat1000 => 0x0000#16
  | .single => 0x0035#16

/-- `n0 = min(LEN, FIFO_CAPACITY)`, the size of the initial write (rule R203). -/
def firstWriteSize (p : Params) (len : Nat) : Nat := min len p.fifoCapacity

/-- `k = min(CHUNK_SIZE, LEN - SENT)`, the size of the next chunk (rule R205). -/
def chunkWriteSize (p : Params) (len sent : Nat) : Nat := min p.chunkSize (len - sent)

/-- `ceil(rest / CHUNK_SIZE)`, the number of waits for `rest` bytes not yet written (rule R209). -/
def waits (p : Params) (rest : Nat) : Nat := (rest + p.chunkSize - 1) / p.chunkSize

end Sys2Proof.Machine
end

