-- ==== Sys2Proof/Machine/DataRate.lean ====
section
/-!
DEFINITION. The data-rate scaler (42_datarate.md rules R160 to R164): dividing before multiplying, with no wrap.
-/

namespace Sys2Proof.Machine

/-- `r` of rule R161: the read-back bytes as one big-endian number. -/
def readBackWord (bytes : List Byte) : BitVec 32 := BitVec.ofNat 32 (beNat bytes)

/-- `F = r[27:26]` (rule R161; UNVERIFIED layout, log entry 13). -/
def txosrField (r : BitVec 32) : BitVec 2 := r.extractLsb' 26 2

/-- `NCO_MODE = r[25:0]`; `r[31:28]` is ignored (rule R161). -/
def ncoMode (r : BitVec 32) : BitVec 26 := r.extractLsb' 0 26

/-- TXOSR of a field value (rule R160; UNVERIFIED numbers, log entry 14): 0 gives 10, 1 gives 40, 2 gives 20, and 3 the
default 10. -/
def txosr (f : BitVec 2) : Nat :=
  if f = 0#2 then 10
  else if f = 1#2 then 40
  else if f = 2#2 then 20
  else 10

/-- `DR = (NCO_MODE div XTAL_FREQ_HZ) * (BPS * TXOSR)` (rule R163). -/
def dataRateValue (p : Params) (bps : BitVec 16) (r : BitVec 32) : Nat :=
  ((ncoMode r).toNat / p.xtalFreqHz) * (bps.toNat * txosr (txosrField r))

/-- Whether the value fits the 24-bit register (rule R164). -/
def dataRateFits (dr : Nat) : Bool := decide (dr < 2 ^ drRegBits)

/-- `[DR[23:16], DR[15:8], DR[7:0]]` (rule R164). -/
def dataRateBytes (dr : Nat) : List Byte :=
  let reg : BitVec 24 := BitVec.ofNat drRegBits dr
  [reg.extractLsb' 16 8, reg.extractLsb' 8 8, reg.extractLsb' 0 8]

end Sys2Proof.Machine
end

