-- ==== Sys2Proof/Machine/Flags.lean ====
section
/-!
DEFINITION. The status indications. The block has no condition codes (10_state.md rule R31): its "flags" are the result
registers (00_scope.md rule R16). Here stand their encodings, `STATUS` (60_exceptions.md rule R230) and `LC` (10_state.md
rule R23), and what the host reads (70_reset_and_hazards.md rule R264).
-/

namespace Sys2Proof.Machine

/-- `code(<Status>)`, the value `STATUS` holds (rule R230). -/
def Status.code : Status → BitVec 8
  | .ok => 0#8
  | .transportError => 1#8
  | .hardwareMismatch => 2#8
  | .frequencyOutOfRange => 3#8
  | .invalidModulation => 4#8
  | .payloadTooLarge => 5#8
  | .fifoTimeout => 6#8
  | .notReady => 7#8
  | .halted => 8#8
  | .dataRateOutOfRange => 9#8
  | .trimOutOfRange => 10#8
  | .invalidFraming => 11#8
  | .bufferOutOfRange => 12#8
  | .illegalOperation => 13#8

/-- The status a `STATUS` value stands for; none for 14..255, which a start state may not hold (I11; log entry 10). -/
def Status.ofCode (v : BitVec 8) : Option Status :=
  [Status.ok, .transportError, .hardwareMismatch, .frequencyOutOfRange, .invalidModulation, .payloadTooLarge, .fifoTimeout,
    .notReady, .halted, .dataRateOutOfRange, .trimOutOfRange, .invalidFraming, .bufferOutOfRange, .illegalOperation][v.toNat]?

/-- The value `LC` holds (rule R23). -/
def Lc.code : Lc → BitVec 3
  | .unreset => 0#3
  | .resetDone => 1#3
  | .configuring => 2#3
  | .ready => 3#3
  | .halted => 4#3

/-- The lifecycle state an `LC` value stands for; none for 5, 6 and 7, which a start state may not hold (I10; log
entry 10). -/
def Lc.ofCode (v : BitVec 3) : Option Lc :=
  [Lc.unreset, .resetDone, .configuring, .ready, .halted][v.toNat]?

/-- The registers the host reads, each at its width (rules R22, R264). -/
structure HostView where
  busy        : BitVec 1
  lc          : BitVec 3
  curChannel  : BitVec 8
  curDataRate : BitVec 16
  status      : BitVec 8
  errIndex    : BitVec 16
deriving DecidableEq, Repr

/-- What the host reads in a state. -/
def State.hostView (s : State) : HostView where
  busy := BitVec.ofBool s.busy
  lc := s.lc.code
  curChannel := s.curChannel
  curDataRate := s.curDataRate
  status := s.status.code
  errIndex := s.errIndex

end Sys2Proof.Machine
end

