-- ==== Sys2Proof/Machine/Synthesizer.lean ====
section
/-!
DEFINITION. The frequency synthesizer encoder (41_synthesizer.md rules R130 to R137), in exact integer arithmetic.
-/

namespace Sys2Proof.Machine

/-- `floor(a / b)` for `b > 0` (00_scope.md rule R10). -/
def floorDiv (a : Int) (b : Nat) : Int := a / (b : Int)

/-- `round(p / q)`, half toward plus infinity (rule R15), as `floor((2 p + q) / (2 q))`. -/
def roundDiv (p : Int) (q : Nat) : Int := floorDiv (2 * p + (q : Int)) (2 * q)

/-- Whether a frequency lies in `[FREQ_MIN_HZ, FREQ_MAX_HZ]`, both ends included (rule R138). -/
def inBand (p : Params) (freqHz : BitVec 32) : Bool := decide (p.freqMinHz ≤ freqHz) && decide (freqHz ≤ p.freqMaxHz)

/-- The band integer `N` (rule R134). -/
def bandInteger (p : Params) (freqHz : BitVec 32) : Byte := if freqHz < p.bandMidHz then p.intLow else p.intHigh

/-- `num = (FREQ_HZ - N * REF_DIVISOR_HZ) * 2^19` (rule R135). -/
def fractionNumerator (p : Params) (freqHz : BitVec 32) : Int :=
  ((freqHz.toNat : Int) - ((bandInteger p freqHz).toNat : Int) * (p.refDivisorHz : Int)) * 2 ^ fracScaleBits

/-- `W0`, the fractional word before adjustment (rule R135). -/
def fractionWord (p : Params) (freqHz : BitVec 32) : Int := roundDiv (fractionNumerator p freqHz) p.refDivisorHz

/-- `W = W0 + ADJ` (rule R136). -/
def adjustedWord (p : Params) (freqHz : BitVec 32) (adj : BitVec 24) : Int := fractionWord p freqHz + signedOperand 24 adj

/-- Whether `0 <= W < 2^28` (rule R136). -/
def wordFits (w : Int) : Bool := decide (0 ≤ w) && decide (w < 2 ^ freqWordBits)

/-- The five payload bytes `[N-1, zext8(W[27:24]), W[23:16], W[15:8], W[7:0]]` (rule R137). -/
def frequencyBytes (n : Byte) (w : Int) : List Byte :=
  let word : BitVec 28 := BitVec.ofInt freqWordBits w
  [n - 1#8, (word.extractLsb' 24 4).setWidth 8, word.extractLsb' 16 8, word.extractLsb' 8 8, word.extractLsb' 0 8]

/-- `carrier_hz(ch) = BASE_FREQ_HZ + 1000 * STEP_KHZ * ch` (rule R132); no operation evaluates it. -/
def carrierHz (p : Params) (channel : BitVec 8) : Nat := p.baseFreqHz + 1000 * p.stepKhz * channel.toNat

end Sys2Proof.Machine
end

