-- ==== Sys2Proof/Machine/Sequencer.lean ====
section
/-!
DEFINITION. The sequencer: what each transaction of a running operation does (the transaction parts of 40_lifecycle.md rules
R103, R105 to R107, 41_synthesizer.md rule R137, 42_datarate.md rule R165 and 44_fifo_transmit.md rule R207), one
transaction at a time (20_memory.md rules R59, R62), how many more a position can take (70_reset_and_hazards.md rule R270),
and an operation run to its end.
-/

namespace Sys2Proof.Machine

/-! ### Lifecycle -/

/-- RESET's transaction (rule R105). -/
def advanceReset (s : State) : State :=
  let t := s.transact .reset
  match s.answerTo .reset with
  | .fail => t.raiseFatal .transportError
  | .ok _ => (t.setLc .resetDone).complete

/-- The loader at index `i` (rules R103, R106): the next entry waits for its transaction, or the table is exhausted. -/
def loadFrom (i : Nat) (s : State) : State :=
  if i < s.cfg.params.cfgTable.length then s.setSeq (.configure i) else (s.setLc .configuring).complete

/-- The property write of a table entry (rule R103). -/
def entryWrite (e : CfgEntry) : Transaction := .setProperty e.group e.offset e.count e.value

/-- CONFIGURE's transaction for entry `i` (rules R103, R106; past the table, log entry 12). -/
def advanceConfigure (i : Nat) (s : State) : State :=
  match s.cfg.params.cfgTable[i]? with
  | none => loadFrom i s
  | some e =>
    let t := s.transact (entryWrite e)
    match s.answerTo (entryWrite e) with
    | .fail => (t.setLc .halted).raiseAt .transportError (BitVec.ofNat 16 i)
    | .ok _ => loadFrom (i + 1) t

/-- The u16 `part` of a part-info answer (20_memory.md rules R53, R55; DEDUCED, log entry 20). -/
def partOf (bytes : List Byte) : BitVec 16 := BitVec.ofNat 16 (beNat bytes)

/-- VERIFY's transaction and comparison (rule R107). -/
def advanceVerify (s : State) : State :=
  let t := s.transact .readPartInfo
  match s.answerTo .readPartInfo with
  | .fail => t.raiseFatal .transportError
  | .ok bytes =>
    if partOf bytes = s.cfg.params.expectedPartId then (t.setLc .ready).complete else t.raiseFatal .hardwareMismatch

/-! ### Property writes -/

/-- A `TxSetProperty` of these bytes, their number its count (20_memory.md rule R53). -/
def propertyWrite (group offset : Byte) (bytes : List Byte) : Transaction :=
  .setProperty group offset (BitVec.ofNat 8 bytes.length) bytes

/-- The one property write of APPLY_FREQUENCY, SET_MODULATION, SET_POWER and ADJUST_CRYSTAL (rules R138, R181, R182,
R184). -/
def advanceProperty (group offset : Byte) (bytes : List Byte) (s : State) : State :=
  let t := s.transact (propertyWrite group offset bytes)
  match s.answerTo (propertyWrite group offset bytes) with
  | .fail => t.raise .transportError
  | .ok _ => t.complete

/-! ### The data rate -/

/-- `TxGetProperty(NCO_GROUP, NCO_OFFSET, 4)` (rule R161). -/
def ncoRead (p : Params) : Transaction := .getProperty p.ncoGroup p.ncoOffset 4#8

/-- SET_DATA_RATE's read-back and the range check on what it gives (rule R165). -/
def advanceDataRateRead (bps : BitVec 16) (s : State) : State :=
  let t := s.transact (ncoRead s.cfg.params)
  match s.answerTo (ncoRead s.cfg.params) with
  | .fail => t.raise .transportError
  | .ok bytes =>
    if dataRateFits (dataRateValue s.cfg.params bps (readBackWord bytes)) then
      t.setSeq (.dataRateWrite bps (readBackWord bytes))
    else t.raise .dataRateOutOfRange

/-- The data-rate register write (rule R164). -/
def dataRateWrite (p : Params) (bps : BitVec 16) (r : BitVec 32) : Transaction :=
  propertyWrite p.drGroup p.drOffset (dataRateBytes (dataRateValue p bps r))

/-- SET_DATA_RATE's write; `CUR_DATA_RATE` is written only once it has succeeded (rule R165). -/
def advanceDataRateWrite (bps : BitVec 16) (r : BitVec 32) (s : State) : State :=
  let t := s.transact (dataRateWrite s.cfg.params bps r)
  match s.answerTo (dataRateWrite s.cfg.params bps r) with
  | .fail => t.raise .transportError
  | .ok _ => (t.setDataRate bps).complete

/-! ### The FIFO sequence -/

/-- The head of the `while SENT < LEN` loop (rules R204, R206, R207): a new wait, its polls counted from 0, or the
start-transmit. -/
def transmitLoop (job : TxJob) (sent : Nat) (s : State) : State :=
  if sent < job.len.toNat then s.setSeq (.txPoll job sent 0) else s.setSeq (.txStart job)

/-- A FIFO write of `n` payload bytes from offset `sent` on (rules R200, R203, R205, R207). -/
def advanceWrite (job : TxJob) (sent n : Nat) (s : State) : Host.Outcome State Fault Refusal :=
  match memRead s.pmem (job.paddr.toNat + sent) n with
  | none => .fault (.pmemOutOfRange (job.paddr.toNat + sent) n)
  | some bytes =>
    let t := s.transact (.writeFifo bytes)
    match s.answerTo (.writeFifo bytes) with
    | .fail => .next (t.raise .transportError)
    | .ok _ => .next (transmitLoop job (sent + n) t)

/-- The u8 `free` of a free-space answer (20_memory.md rule R56). -/
def freeOf (bytes : List Byte) : BitVec 8 := BitVec.ofNat 8 (beNat bytes)

/-- One poll of a wait (rule R204): enough space ends the wait, `POLL_LIMIT` short polls end the operation (log entry 12). -/
def advancePoll (job : TxJob) (sent polls : Nat) (s : State) : State :=
  let t := s.transact .readFifoFreeSpace
  match s.answerTo .readFifoFreeSpace with
  | .fail => t.raise .transportError
  | .ok bytes =>
    if s.cfg.params.chunkSize ≤ (freeOf bytes).toNat then t.setSeq (.txChunk job sent)
    else if s.cfg.params.pollLimit ≤ polls + 1 then t.raise .fifoTimeout
    else t.setSeq (.txPoll job sent (polls + 1))

/-- `TxStartTx(CUR_CHANNEL, START_TX_CONDITION, LEN_CODE)` (rule R206). -/
def startTransmit (job : TxJob) (s : State) : Transaction :=
  .startTx s.curChannel s.cfg.params.startTxCondition job.lenCode

/-- The start-transmit (rules R206, R207). -/
def advanceStart (job : TxJob) (s : State) : State :=
  let t := s.transact (startTransmit job s)
  match s.answerTo (startTransmit job s) with
  | .fail => t.raise .transportError
  | .ok _ => t.complete

/-! ### One transaction, and an operation to its end -/

/-- The running operation takes its next transaction; an idle block does nothing. -/
def advance (s : State) : Host.Outcome State Fault Refusal :=
  match s.seq with
  | .idle => .next s
  | .reset => .next (advanceReset s)
  | .configure i => .next (advanceConfigure i s)
  | .verify => .next (advanceVerify s)
  | .property group offset bytes => .next (advanceProperty group offset bytes s)
  | .dataRateRead bps => .next (advanceDataRateRead bps s)
  | .dataRateWrite bps r => .next (advanceDataRateWrite bps r s)
  | .txFirst job => advanceWrite job 0 (firstWriteSize s.cfg.params job.len.toNat) s
  | .txPoll job sent polls => .next (advancePoll job sent polls s)
  | .txChunk job sent => advanceWrite job sent (chunkWriteSize s.cfg.params job.len.toNat sent) s
  | .txStart job => .next (advanceStart job s)

/-- What a TRANSMIT with `rest` bytes left to write can still take: `POLL_LIMIT` polls and one write for each wait, and the
start-transmit (rule R209). -/
def transmitRest (p : Params) (rest : Nat) : Nat := waits p rest * (p.pollLimit + 1) + 1

/-- The most transactions the running operation can still take (rules R209, R270). -/
def remaining (s : State) : Nat :=
  let p := s.cfg.params
  match s.seq with
  | .idle => 0
  | .reset => 1
  | .configure i => (p.cfgTable.length - (i + 1)) + 1
  | .verify => 1
  | .property _ _ _ => 1
  | .dataRateRead _ => 2
  | .dataRateWrite _ _ => 1
  | .txFirst job => 1 + transmitRest p (job.len.toNat - firstWriteSize p job.len.toNat)
  | .txPoll job sent polls =>
    ((p.pollLimit - (polls + 1)) + 1) + 1
      + transmitRest p (job.len.toNat - (sent + chunkWriteSize p job.len.toNat sent))
  | .txChunk job sent => 1 + transmitRest p (job.len.toNat - (sent + chunkWriteSize p job.len.toNat sent))
  | .txStart _ => 1

/-- At most `n` transactions of the running operation, stopping where it ends. -/
def settle : Nat → State → Host.Outcome State Fault Refusal
  | 0, s => .next s
  | n + 1, s =>
    match s.seq with
    | .idle => .next s
    | _ =>
      match advance s with
      | .next t => settle n t
      | .fault r => .fault r
      | .refused r => .refused r

/-- The running operation to its end (rule R237: it is never interrupted). `remaining` is enough (rule R271). -/
def runToEnd (s : State) : Host.Outcome State Fault Refusal := settle (remaining s) s

/-- An operation: refused while another runs (rule R264), ended by the lifecycle guard where it may not run (rule R102),
else its `body` (its operand checks, and the first position of its transactions) and then its transactions to the end. -/
def runOperation (g : GuardClass) (body : State → State) (s : State) : Host.Outcome State Fault Refusal :=
  match s.seq with
  | .idle =>
    match lifecycleGuard g s.lc with
    | some st => .next (s.raise st)
    | none => runToEnd (body s)
  | _ => .refused .issuedWhileBusy

end Sys2Proof.Machine
end

