-- ==== Sys2Proof/Machine/Lifecycle.lean ====
section
/-!
DEFINITION. The meanings of RESET, CONFIGURE and VERIFY (40_lifecycle.md rules R105 to R107).
-/

namespace Sys2Proof.Machine

/-- RESET past its (empty) guard: the IC's reset command comes next (rule R105). -/
def startReset (s : State) : State := s.setSeq .reset

/-- RESET (rule R105). -/
def execReset (s : State) : Host.Outcome State Fault Refusal := runOperation .reset startReset s

/-- CONFIGURE past its guard: the loader starts at entry 0 (rules R103, R106). -/
def startConfigure (s : State) : State := loadFrom 0 s

/-- CONFIGURE (rule R106). -/
def execConfigure (s : State) : Host.Outcome State Fault Refusal := runOperation .configure startConfigure s

/-- VERIFY past its guard: the part-info read comes next (rule R107). -/
def startVerify (s : State) : State := s.setSeq .verify

/-- VERIFY (rule R107). -/
def execVerify (s : State) : Host.Outcome State Fault Refusal := runOperation .verify startVerify s

end Sys2Proof.Machine
end

