-- ==== Sys2Proof/Machine/LinkControl.lean ====
section
/-!
DEFINITION. The meanings of the setters: SET_FREQUENCY and APPLY_FREQUENCY (41_synthesizer.md rules R133, R138),
SET_DATA_RATE (42_datarate.md rule R165), SET_MODULATION, SET_POWER and ADJUST_CRYSTAL (43_link_control.md rules R181, R182,
R184). Each `start…` is what the operation does past its guard and before any transaction.
-/

namespace Sys2Proof.Machine

/-- SET_FREQUENCY past its guard: the clamped channel is stored and the operation is over, with no transaction (rule
R133). -/
def startSetFrequency (channel : BitVec 8) (s : State) : State :=
  (s.setChannel (clampChannel s.cfg.params.channelLimitUpper channel)).complete

/-- SET_FREQUENCY (rule R133). -/
def execSetFrequency (channel : BitVec 8) (s : State) : Host.Outcome State Fault Refusal :=
  runOperation .needsReady (startSetFrequency channel) s

/-- The five bytes APPLY_FREQUENCY writes (rule R137). -/
def frequencyPayload (p : Params) (freqHz : BitVec 32) (adj : BitVec 24) : List Byte :=
  frequencyBytes (bandInteger p freqHz) (adjustedWord p freqHz adj)

/-- APPLY_FREQUENCY past its guard: the band check, then the word check, then the property write comes next (rules R138,
R139). -/
def startApplyFrequency (freqHz : BitVec 32) (adj : BitVec 24) (s : State) : State :=
  if inBand s.cfg.params freqHz = false then s.raise .frequencyOutOfRange
  else if wordFits (adjustedWord s.cfg.params freqHz adj) = false then s.raise .frequencyOutOfRange
  else
    s.setSeq (.property s.cfg.params.freqGroup s.cfg.params.freqOffset (frequencyPayload s.cfg.params freqHz adj))

/-- APPLY_FREQUENCY (rule R138). -/
def execApplyFrequency (freqHz : BitVec 32) (adj : BitVec 24) (s : State) : Host.Outcome State Fault Refusal :=
  runOperation .needsReady (startApplyFrequency freqHz adj) s

/-- SET_DATA_RATE past its guard: the read-back comes next (rule R165). -/
def startSetDataRate (bps : BitVec 16) (s : State) : State := s.setSeq (.dataRateRead bps)

/-- SET_DATA_RATE (rule R165). -/
def execSetDataRate (bps : BitVec 16) (s : State) : Host.Outcome State Fault Refusal :=
  runOperation .needsReady (startSetDataRate bps) s

/-- SET_MODULATION past its guard: the write of the variant's one byte comes next (rule R181). -/
def startSetModulation (mode : BitVec 8) (s : State) : State :=
  match modulationOf mode with
  | none => s.raise .invalidModulation
  | some m => s.setSeq (.property s.cfg.params.modGroup s.cfg.params.modOffset [modulationByte s.cfg.params m])

/-- SET_MODULATION (rule R181). -/
def execSetModulation (mode : BitVec 8) (s : State) : Host.Outcome State Fault Refusal :=
  runOperation .needsReady (startSetModulation mode) s

/-- SET_POWER past its guard: the write of the level, unchecked, comes next (rule R182). -/
def startSetPower (level : BitVec 8) (s : State) : State :=
  s.setSeq (.property s.cfg.params.pwrGroup s.cfg.params.pwrOffset [level])

/-- SET_POWER (rule R182). -/
def execSetPower (level : BitVec 8) (s : State) : Host.Outcome State Fault Refusal :=
  runOperation .needsReady (startSetPower level) s

/-- ADJUST_CRYSTAL past its guard: the write of a trim value in `[0, TRIM_MAX]` comes next (rule R184). -/
def startAdjustCrystal (adj : BitVec 8) (s : State) : State :=
  if trimValue s.cfg.params adj < 0 ∨ (s.cfg.params.trimMax.toNat : Int) < trimValue s.cfg.params adj then
    s.raise .trimOutOfRange
  else
    s.setSeq (.property s.cfg.params.trimGroup s.cfg.params.trimOffset [BitVec.ofInt 8 (trimValue s.cfg.params adj)])

/-- ADJUST_CRYSTAL (rule R184). -/
def execAdjustCrystal (adj : BitVec 8) (s : State) : Host.Outcome State Fault Refusal :=
  runOperation .needsReady (startAdjustCrystal adj) s

end Sys2Proof.Machine
end

