-- ==== Sys2Proof/Machine/Transmit.lean ====
section
/-!
DEFINITION. The meaning of TRANSMIT (44_fifo_transmit.md rules R202, R207).
-/

namespace Sys2Proof.Machine

/-- TRANSMIT past its guard: the checks of rule R202 in their order; past them the initial write comes next (rule R203). -/
def startTransmitOperation (paddr : BitVec 24) (len framecount : BitVec 16) (s : State) : State :=
  if len = 0#16 then s.complete
  else if s.cfg.params.maxPacketLen < len then s.raise .payloadTooLarge
  else
    match framingOf framecount with
    | none => s.raise .invalidFraming
    | some f =>
      if pmemSize < paddr.toNat + len.toNat then s.raise .bufferOutOfRange
      else s.setSeq (.txFirst ⟨paddr, len, framingCode f⟩)

/-- TRANSMIT (rule R207). -/
def execTransmit (paddr : BitVec 24) (len framecount : BitVec 16) (s : State) : Host.Outcome State Fault Refusal :=
  runOperation .needsReady (startTransmitOperation paddr len framecount) s

end Sys2Proof.Machine
end

