-- ==== Sys2Proof/Machine/Dispatch.lean ====
section
/-!
DEFINITION. The meaning of every operation of spec/opcode_table.json, one arm per constructor of `Instr`.
-/

namespace Sys2Proof.Machine

def exec (i : Instr) (s : State) : Host.Outcome State Fault Refusal :=
  match i with
  | .reset => Sys2Proof.Machine.execReset s
  | .configure => Sys2Proof.Machine.execConfigure s
  | .verify => Sys2Proof.Machine.execVerify s
  | .setFrequency channel => Sys2Proof.Machine.execSetFrequency channel s
  | .applyFrequency freqHz adj => Sys2Proof.Machine.execApplyFrequency freqHz adj s
  | .setDataRate bps => Sys2Proof.Machine.execSetDataRate bps s
  | .setModulation mode => Sys2Proof.Machine.execSetModulation mode s
  | .setPower level => Sys2Proof.Machine.execSetPower level s
  | .adjustCrystal adj => Sys2Proof.Machine.execAdjustCrystal adj s
  | .transmit paddr len framecount => Sys2Proof.Machine.execTransmit paddr len framecount s

end Sys2Proof.Machine
end

