-- ==== Sys2Proof/Machine/Step.lean ====
section
/-!
DEFINITION. One step of the machine: the host issues the next word of its program and the block runs it to its end
(70_reset_and_hazards.md rules R264, R271).
-/

namespace Sys2Proof.Machine

/-- One step (DESIGN CHOICE of the grain, log entry 4). A running operation goes on to its end (rule R237). An idle block takes the next word: a decoded one runs, an
illegal one ends at once with `IllegalOperation` (30_encoding.md rule R77). With no word to take it stays idle and keeps
all state (60_exceptions.md rule R243; DEDUCED, log entry 11). -/
def step (s : State) : Host.Outcome State Fault Refusal :=
  match s.seq with
  | .idle =>
    match s.fetch with
    | none => .next s
    | some (w, t) =>
      match decode w with
      | .op i => exec i t
      | .illegal _ => .next (t.raise .illegalOperation)
  | _ => runToEnd s

/-- `s` with the operation word of `nbits` bits `w` as the next one the host issues, and the block idle so that it takes the
word in the very next step (log entry 6). -/
def State.withFetchWord (s : State) (nbits w : Nat) : State :=
  (s.setSeq .idle).setProgram (tableWord nbits w :: s.program.tail)

end Sys2Proof.Machine
end

