-- ==== Sys2Proof/WellFormed.lean ====
section
/-!
DEFINITION. Well-formedness. An `Instr` needs no check: the width of each operand is its type, and every value of the width
is an operand of the operation (30_encoding.md rules R73, R78). What can be ill-formed is an assembler line, whose operands
are numbers: rule R79 gives each its range and refuses the rest. (The constraints on a configuration are `Params.wf` and
`CfgEntry.wf` of Config.lean; the form of the payload memory is `Memory.wf` of Machine/State.lean.)
-/

namespace Sys2Proof

/-- The mode operand is in range: 0..255, or a name (rule R79). -/
def ModeOperand.wf : ModeOperand → Bool
  | .code n => decide (n ≤ 255)
  | .name _ => true

/-- Every operand of the line is inside the range rule R79 gives it. -/
def Line.wf : Line → Bool
  | .reset => true
  | .configure => true
  | .verify => true
  | .setFrequency channel => decide (channel ≤ 255)
  | .applyFrequency freqHz adj => decide (freqHz ≤ 4294967295) && decide (-8388608 ≤ adj) && decide (adj ≤ 8388607)
  | .setDataRate bps => decide (bps ≤ 65535)
  | .setModulation mode => mode.wf
  | .setPower level => decide (level ≤ 255)
  | .adjustCrystal adj => decide (-128 ≤ adj) && decide (adj ≤ 127)
  | .transmit paddr len framecount =>
      decide (paddr ≤ 0xFFFFFF) && decide (len ≤ 65535) && decide (framecount ≤ 65535)
  | .boot => true

end Sys2Proof
end

