-- ==== Sys2Proof/Machine/Assembler.lean ====
section
/-!
DEFINITION. The assembler of 30_encoding.md rules R79 to R81: a line of text to a `Line`, and a `Line` to the operation words
it stands for (three for the pseudo-operation `BOOT`). What the spec leaves to the reader of a line (letter case, white
space) is log entry 16.
-/

namespace Sys2Proof.Machine

/-! ### Lines to words -/

/-- The mode code a symbolic name stands for (rules R79, R180). -/
def modeCode : ModeOperand → Nat
  | .code n => n
  | .name .fsk2Packet => 0
  | .name .cwPn9 => 1
  | .name .fsk2Pn9 => 2
  | .name .fsk2LegacyPacket => 3

/-- The operations a line stands for, each operand put into its field (rules R80, R81). -/
def lineOperations : Line → List Instr
  | .reset => [.reset]
  | .configure => [.configure]
  | .verify => [.verify]
  | .setFrequency channel => [.setFrequency (BitVec.ofNat 8 channel)]
  | .applyFrequency freqHz adj => [.applyFrequency (BitVec.ofNat 32 freqHz) (BitVec.ofInt 24 adj)]
  | .setDataRate bps => [.setDataRate (BitVec.ofNat 16 bps)]
  | .setModulation mode => [.setModulation (BitVec.ofNat 8 (modeCode mode))]
  | .setPower level => [.setPower (BitVec.ofNat 8 level)]
  | .adjustCrystal adj => [.adjustCrystal (BitVec.ofInt 8 adj)]
  | .transmit paddr len framecount =>
      [.transmit (BitVec.ofNat 24 paddr) (BitVec.ofNat 16 len) (BitVec.ofNat 16 framecount)]
  | .boot => [.reset, .configure, .verify]

/-- The words of a line; a line with an operand outside its range encodes no word (rule R79). -/
def assemble (l : Line) : Option (List Word) :=
  if l.wf then some ((lineOperations l).map encode) else none

/-! ### Text to lines -/

/-- What a line of text is: nothing but white space and a comment, a line, or text the assembler refuses. -/
inductive ParsedLine where
  | blank
  | line (l : Line)
  | refused
deriving DecidableEq, Repr

/-- The white space inside a line. -/
def isBlankChar (c : Char) : Bool := c == ' ' || c == '\t' || c == '\r'

/-- A line up to its comment, which `;` starts (rule R79). -/
def dropComment (cs : List Char) : List Char := cs.takeWhile (fun c => c != ';')

/-- Text without white space at either end. -/
def trimBlank (cs : List Char) : List Char := ((cs.dropWhile isBlankChar).reverse.dropWhile isBlankChar).reverse

/-- Text cut at its commas (rule R79: operands are separated by commas). -/
def splitCommas : List Char → List (List Char)
  | [] => [[]]
  | c :: cs =>
    if c == ',' then [] :: splitCommas cs
    else
      match splitCommas cs with
      | [] => [[c]]
      | field :: rest => (c :: field) :: rest

/-- The value of a digit in base 10 or 16. -/
def digitValue (base : Nat) (c : Char) : Option Nat :=
  let v :=
    if '0'.toNat ≤ c.toNat ∧ c.toNat ≤ '9'.toNat then some (c.toNat - '0'.toNat)
    else if 'a'.toNat ≤ c.toNat ∧ c.toNat ≤ 'f'.toNat then some (c.toNat - 'a'.toNat + 10)
    else if 'A'.toNat ≤ c.toNat ∧ c.toNat ≤ 'F'.toNat then some (c.toNat - 'A'.toNat + 10)
    else none
  v.filter (fun d => decide (d < base))

/-- Digits in a base, the first the most significant. -/
def parseDigits (base : Nat) : Nat → List Char → Option Nat
  | acc, [] => some acc
  | acc, c :: cs =>
    match digitValue base c with
    | none => none
    | some d => parseDigits base (acc * base + d) cs

/-- An unsigned number: decimal, or hexadecimal with `0x` (rule R79). -/
def parseNat : List Char → Option Nat
  | [] => none
  | ['0', 'x'] => none
  | '0' :: 'x' :: cs => parseDigits 16 0 cs
  | cs => parseDigits 10 0 cs

/-- A signed number: an unsigned one, or `-` before one (rule R79). -/
def parseInt : List Char → Option Int
  | '-' :: cs => (parseNat cs).map fun n => -(n : Int)
  | cs => (parseNat cs).map fun n => (n : Int)

/-- A mode operand: one of the four symbolic names, or a number (rule R79). -/
def parseMode (cs : List Char) : Option ModeOperand :=
  if cs = "FSK2_Packet".toList then some (.name .fsk2Packet)
  else if cs = "CW_PN9".toList then some (.name .cwPn9)
  else if cs = "FSK2_PN9".toList then some (.name .fsk2Pn9)
  else if cs = "FSK2_LegacyPacket".toList then some (.name .fsk2LegacyPacket)
  else (parseNat cs).map .code

/-- A line of a mnemonic with no operand. -/
def parseNullary (ops : List (List Char)) (l : Line) : Option Line := if ops = [] then some l else none

/-- A line of a mnemonic with one operand. -/
def parseUnary {α : Type} (ops : List (List Char)) (operand : List Char → Option α) (l : α → Line) : Option Line :=
  match ops with
  | [a] => (operand a).map l
  | _ => none

/-- The line a mnemonic and its operands stand for (rules R79, R80). -/
def parseOperation (mnemonic : List Char) (ops : List (List Char)) : Option Line :=
  if mnemonic = "RESET".toList then parseNullary ops .reset
  else if mnemonic = "CONFIGURE".toList then parseNullary ops .configure
  else if mnemonic = "VERIFY".toList then parseNullary ops .verify
  else if mnemonic = "BOOT".toList then parseNullary ops .boot
  else if mnemonic = "SET_FREQUENCY".toList then parseUnary ops parseNat .setFrequency
  else if mnemonic = "SET_DATA_RATE".toList then parseUnary ops parseNat .setDataRate
  else if mnemonic = "SET_MODULATION".toList then parseUnary ops parseMode .setModulation
  else if mnemonic = "SET_POWER".toList then parseUnary ops parseNat .setPower
  else if mnemonic = "ADJUST_CRYSTAL".toList then parseUnary ops parseInt .adjustCrystal
  else if mnemonic = "APPLY_FREQUENCY".toList then
    match ops with
    | [f, a] => (parseNat f).bind fun f => (parseInt a).map fun a => .applyFrequency f a
    | _ => none
  else if mnemonic = "TRANSMIT".toList then
    match ops with
    | [a, n, k] => (parseNat a).bind fun a => (parseNat n).bind fun n => (parseNat k).map fun k => .transmit a n k
    | _ => none
  else none

/-- A line of text (rule R79). -/
def parseLine (cs : List Char) : ParsedLine :=
  let text := trimBlank (dropComment cs)
  let mnemonic := text.takeWhile (fun c => !isBlankChar c)
  let rest := trimBlank (text.drop mnemonic.length)
  if text = [] then .blank
  else
    match parseOperation mnemonic (if rest = [] then [] else (splitCommas rest).map trimBlank) with
    | none => .refused
    | some l => .line l

/-- The words of a text, one operation a line; none where a line is refused or has an operand out of range (rule R79). -/
def assembleText : List (List Char) → Option (List Word)
  | [] => some []
  | cs :: rest =>
    match parseLine cs with
    | .blank => assembleText rest
    | .refused => none
    | .line l => (assemble l).bind fun ws => (assembleText rest).map fun more => ws ++ more

end Sys2Proof.Machine
end

