-- ==== Sys2Proof/Machine/HostPort.lean ====
section
/-!
DEFINITION. The host's own moves on the payload memory (20_memory.md rules R50, R65; 70_reset_and_hazards.md rule R264): it
owns PMEM and may write it, but not the bytes a running TRANSMIT borrows. (Its other moves are in `step`, which issues the
next word of its program, and in `State.hostView`, which reads the result registers.)
-/

namespace Sys2Proof.Machine

/-- The TRANSMIT that is running, if one is (rule R30). -/
def Sequencer.job? : Sequencer → Option TxJob
  | .idle => none
  | .reset => none
  | .configure _ => none
  | .verify => none
  | .property _ _ _ => none
  | .dataRateRead _ => none
  | .dataRateWrite _ _ => none
  | .txFirst job => some job
  | .txPoll job _ _ => some job
  | .txChunk job _ => some job
  | .txStart job => some job

/-- Whether an address lies in `PMEM[PADDR .. PADDR+LEN-1]` of a running TRANSMIT (rules R65, R264). -/
def State.borrowed (s : State) (addr : Nat) : Bool :=
  match s.seq.job? with
  | none => false
  | some job => decide (job.paddr.toNat ≤ addr) && decide (addr < job.paddr.toNat + job.len.toNat)

/-- The host writes one byte of PMEM; refused for a borrowed byte, since the host has no such move (rule R65, D36;
DEDUCED, log entry 15). -/
def State.hostWrite (addr : BitVec 24) (v : Byte) (s : State) : Host.Outcome State Fault Refusal :=
  if s.borrowed addr.toNat then .refused .payloadBorrowed
  else .next (s.setPmem (s.pmem.write addr.toNat v))

end Sys2Proof.Machine
end

