-- ==== Sys2Proof/Safety.lean ====
section
/-!
DEFINITION. What a sound state of the block is, in the terms the statements use: the shapes of transactions and answers
(20_memory.md rule R53), the ranges of the hidden sequencer state (10_state.md rule R30), the channel invariant (rule R28),
what a stretch of the trace carried to the FIFO (44_fifo_transmit.md rule R208), and the values the spec's formulas give,
written apart from the machine's own functions.
-/

namespace Sys2Proof.Machine

/-- The request fields of a transaction fit rule R53: a property write's count is the number of its bytes, and a FIFO write
carries 1..`FIFO_CAPACITY` bytes. -/
def Transaction.wf (p : Params) : Transaction → Bool
  | .reset => true
  | .readPartInfo => true
  | .getProperty _ _ _ => true
  | .setProperty _ _ count bytes => decide (count.toNat = bytes.length)
  | .writeFifo bytes => decide (1 ≤ bytes.length) && decide (bytes.length ≤ p.fifoCapacity)
  | .readFifoFreeSpace => true
  | .startTx _ _ _ => true

/-- An entry of the trace fits rule R53: its transaction does, and a successful answer has the length of its kind. -/
def Event.wf (p : Params) (e : Event) : Bool :=
  e.tx.wf p &&
  match e.answer with
  | .fail => true
  | .ok bytes => decide (bytes.length = e.tx.responseLength)

/-- The operands of a running TRANSMIT passed the checks of rule R202. -/
def TxJob.wf (p : Params) (job : TxJob) : Bool :=
  decide (1 ≤ job.len.toNat) && decide (job.len ≤ p.maxPacketLen) &&
  decide (job.paddr.toNat + job.len.toNat ≤ pmemSize) &&
  decide (job.lenCode = 0x1B85#16 ∨ job.lenCode = 0x0000#16 ∨ job.lenCode = 0x0035#16)

/-- The position of a running operation is one it can reach: in a lifecycle state that let it start (rule R101), with its
counters in the ranges of rule R30. -/
def Sequencer.wf (p : Params) (lc : Lc) : Sequencer → Bool
  | .idle => true
  | .reset => true
  | .configure i => decide (i < p.cfgTable.length) && decide (lc = .resetDone ∨ lc = .configuring ∨ lc = .ready)
  | .verify => decide (lc = .configuring ∨ lc = .ready)
  | .property _ _ bytes => decide (bytes.length ≤ 255) && decide (lc = .ready)
  | .dataRateRead _ => decide (lc = .ready)
  | .dataRateWrite bps r => dataRateFits (dataRateValue p bps r) && decide (lc = .ready)
  | .txFirst job => job.wf p && decide (lc = .ready)
  | .txPoll job sent polls =>
      job.wf p && decide (0 < sent) && decide (sent < job.len.toNat) && decide (polls < p.pollLimit) && decide (lc = .ready)
  | .txChunk job sent => job.wf p && decide (0 < sent) && decide (sent < job.len.toNat) && decide (lc = .ready)
  | .txStart job => job.wf p && decide (lc = .ready)

/-- The invariant of the block. -/
structure State.Inv (s : State) : Prop where
  /-- `CUR_CHANNEL <= CHANNEL_LIMIT_UPPER` (rule R28). -/
  channel : s.curChannel ≤ s.cfg.params.channelLimitUpper
  /-- PMEM is in its canonical form. -/
  memory : s.pmem.wf = true
  /-- The hidden sequencer state is in its ranges (rule R30). -/
  sequencer : s.seq.wf s.cfg.params s.lc = true
  /-- `ERR_INDEX` is 0, or the index of a table entry after a transport failure (rule R27). -/
  errIndex : s.errIndex ≠ 0#16 →
    s.status = .transportError ∧ s.errIndex.toNat < s.cfg.params.cfgTable.length
  /-- Every transaction of the trace fits rule R53. -/
  trace : ∀ e ∈ s.trace, e.wf s.cfg.params = true

/-! ### What an operation is answered and how it ends -/

/-- How the transport answers `t` as the `n`-th transaction (from 0) that the block issues from `s` on (rule R57). -/
def State.answerAt (s : State) (n : Nat) (t : Transaction) : Response := respond t (s.trace.length + n) s.answers[n]?

/-- `s` after an operation that issued exactly `events` and ended with a status and an index (rule R14), nothing else
changed. -/
def State.endedWith (s : State) (st : Status) (info : BitVec 16) (events : List Event) : State :=
  { s with
    status := st, errIndex := info, trace := s.trace ++ events, answers := s.answers.drop events.length }

/-- `s` after an operation that the lifecycle guard ended (40_lifecycle.md rule R102). -/
def State.guardedOut (s : State) : State :=
  s.endedWith (if s.lc = .halted then .halted else .notReady) 0#16 []

/-- Whether rule R101 lets an operation run in a lifecycle state. -/
def mayRun (i : Instr) (lc : Lc) : Bool :=
  match i with
  | .reset => true
  | .configure => decide (lc = .resetDone ∨ lc = .configuring ∨ lc = .ready)
  | .verify => decide (lc = .configuring ∨ lc = .ready)
  | .setFrequency _ => decide (lc = .ready)
  | .applyFrequency _ _ => decide (lc = .ready)
  | .setDataRate _ => decide (lc = .ready)
  | .setModulation _ => decide (lc = .ready)
  | .setPower _ => decide (lc = .ready)
  | .adjustCrystal _ => decide (lc = .ready)
  | .transmit _ _ _ => decide (lc = .ready)

/-- The write that replays a table entry, its bytes unchanged (rule R103). -/
def tableWrite (e : CfgEntry) : Transaction := .setProperty e.group e.offset e.count e.value

/-! ### The values of the spec's formulas -/

/-- The ten opcodes of 30_encoding.md rule R74, as numbers. -/
def legalOpcodes : List Nat := [0x01, 0x02, 0x03, 0x10, 0x11, 0x12, 0x13, 0x14, 0x15, 0x20]

/-- Rule R77: an opcode outside the ten, or a reserved bit of rule R72 set. -/
def illegalWord (w : Nat) : Bool :=
  let opc := w / 2 ^ 56
  let operands := w % 2 ^ 56
  !legalOpcodes.contains opc ||
  ([0x01, 0x02, 0x03].contains opc && decide (operands ≠ 0)) ||
  ([0x10, 0x13, 0x14, 0x15].contains opc && decide (operands / 2 ^ 8 ≠ 0)) ||
  (decide (opc = 0x12) && decide (operands / 2 ^ 16 ≠ 0))

/-- `round((freq_mhz / ref_divisor - N) * 2^19)` on exact rationals (41_synthesizer.md rules R131, R134, R135;
00_scope.md rule R15). -/
def roundedFraction (p : Params) (freqHz : BitVec 32) : Int :=
  let n : Nat := if freqHz.toNat < p.bandMidHz.toNat then p.intLow.toNat else p.intHigh.toNat
  Int.floor (((freqHz.toNat : ℚ) / (p.refDivisorHz : ℚ) - (n : ℚ)) * 2 ^ 19 + 1 / 2)

/-- The data-rate value of 42_datarate.md rules R160, R161 and R163 for a read-back `r`, divided before multiplied. -/
def scaledDataRate (p : Params) (bps r : Nat) : Nat :=
  let oversampling := if r / 2 ^ 26 % 4 = 1 then 40 else if r / 2 ^ 26 % 4 = 2 then 20 else 10
  (r % 2 ^ 26) / p.xtalFreqHz * (bps * oversampling)

/-- The framing constant of a repeat count (44_fifo_transmit.md rule R201). -/
def framingConstant (framecount : Nat) : Option (BitVec 16) :=
  if framecount = 200 then some 0x1B85#16
  else if framecount = 1000 then some 0x0000#16
  else if framecount = 1 then some 0x0035#16
  else none

/-- The payload of a TRANSMIT: byte `i` is `PMEM[PADDR+i]` (44_fifo_transmit.md rule R200). -/
def State.payload (s : State) (paddr : BitVec 24) (len : BitVec 16) : List Byte :=
  (List.range len.toNat).map fun i => s.pmem.read (paddr.toNat + i)

/-- The number of waits of a TRANSMIT, `ceil((LEN - n0) / CHUNK_SIZE)` (rule R209). -/
def transmitWaits (p : Params) (len : Nat) : Nat := (len - min len p.fifoCapacity + p.chunkSize - 1) / p.chunkSize

/-! ### The transactions of a TRANSMIT, written out -/

/-- A poll that reported `free` bytes. -/
def pollEvent (free : Byte) : Event := ⟨.readFifoFreeSpace, .ok [free]⟩

/-- A FIFO write that succeeded. -/
def writeEvent (bytes : List Byte) : Event := ⟨.writeFifo bytes, .ok []⟩

/-- The initial write's bytes of a payload (44_fifo_transmit.md rule R203). -/
def firstChunk (p : Params) (payload : List Byte) : List Byte := payload.take p.fifoCapacity

/-- The bytes of the `j`-th write after the initial one, `j` from 0 (rule R205). -/
def laterChunk (p : Params) (payload : List Byte) (j : Nat) : List Byte :=
  (payload.drop (p.fifoCapacity + j * p.chunkSize)).take p.chunkSize

/-- What the polls of one successful wait report: some too little, then one enough (rule R204). -/
structure Wait where
  short  : List Byte
  enough : Byte
deriving DecidableEq, Repr

/-- The polls `short` report less than `CHUNK_SIZE`. -/
def tooShort (p : Params) (short : List Byte) : Bool := short.all fun b => decide (b.toNat < p.chunkSize)

/-- The wait goes on past its short polls: fewer than `POLL_LIMIT` of them, then at least `CHUNK_SIZE` (rule R204). -/
def Wait.wf (p : Params) (w : Wait) : Bool :=
  decide (w.short.length < p.pollLimit) && tooShort p w.short && decide (p.chunkSize ≤ w.enough.toNat)

/-- The polls and writes of the waits from the `j`-th on, each wait's polls followed by its one write. -/
def waitsEvents (p : Params) (payload : List Byte) : Nat → List Wait → List Event
  | _, [] => []
  | j, w :: rest =>
    w.short.map pollEvent ++ pollEvent w.enough :: writeEvent (laterChunk p payload j) :: waitsEvents p payload (j + 1) rest

/-- The initial write of a TRANSMIT and its successful waits (rules R203 to R205). -/
def streamEvents (p : Params) (payload : List Byte) (waits : List Wait) : List Event :=
  writeEvent (firstChunk p payload) :: waitsEvents p payload 0 waits

/-- The transport answers the transactions that come next as the events say. -/
def State.answersAs (s : State) (events : List Event) : Prop :=
  ∀ (n : Nat) (e : Event), events[n]? = some e → s.answerAt n e.tx = e.answer

/-! ### What a stretch of the trace holds -/

/-- The byte strings of the FIFO writes in a stretch of the trace, in trace order. -/
def fifoWrites (events : List Event) : List (List Byte) :=
  events.filterMap fun e =>
    match e.tx with
    | .writeFifo bytes => some bytes
    | _ => none

/-- Whether a stretch of the trace holds a start-transmit. -/
def startsTransmission (events : List Event) : Bool :=
  events.any fun e =>
    match e.tx with
    | .startTx _ _ _ => true
    | _ => false

/-- The most transactions an operation can issue (70_reset_and_hazards.md rule R270). -/
def transactionBound (p : Params) : Instr → Nat
  | .reset => 1
  | .configure => p.cfgTable.length
  | .verify => 1
  | .setFrequency _ => 0
  | .applyFrequency _ _ => 1
  | .setDataRate _ => 2
  | .setModulation _ => 1
  | .setPower _ => 1
  | .adjustCrystal _ => 1
  | .transmit _ len _ => 2 + transmitWaits p len.toNat * (p.pollLimit + 1)

/-- The statuses each operation can end with (60_exceptions.md rule R231), `OK` among them. -/
def possibleStatuses : Instr → List Status
  | .reset => [.ok, .transportError]
  | .configure => [.ok, .transportError, .notReady, .halted]
  | .verify => [.ok, .transportError, .hardwareMismatch, .notReady, .halted]
  | .setFrequency _ => [.ok, .notReady, .halted]
  | .applyFrequency _ _ => [.ok, .transportError, .frequencyOutOfRange, .notReady, .halted]
  | .setDataRate _ => [.ok, .transportError, .notReady, .halted, .dataRateOutOfRange]
  | .setModulation _ => [.ok, .transportError, .invalidModulation, .notReady, .halted]
  | .setPower _ => [.ok, .transportError, .notReady, .halted]
  | .adjustCrystal _ => [.ok, .transportError, .notReady, .halted, .trimOutOfRange]
  | .transmit _ _ _ =>
      [.ok, .transportError, .payloadTooLarge, .fifoTimeout, .notReady, .halted, .invalidFraming, .bufferOutOfRange]

end Sys2Proof.Machine
end

