-- ==== Sys2Proof/Certificates/Slice0/Obligations.lean ====
section
/-!
DEFINITION. The statements about the block, file by file of spec/. The states they speak of are all states, whatever the
configuration, the payload memory, the trace so far and the transport's answers.
-/

open Sys2Proof Sys2Proof.Machine

/-! ### 30_encoding.md -/

/-- Rules R72 to R76, R81: decoding the word of an operation gives the operation back, every operand at every value. -/
def Obligations.DecodeEncodeRoundTrip : Prop :=
  ∀ i : Instr, decode (encode i) = .op i

/-- Rules R75, R76: a word that decodes to an operation is the word that operation is encoded as; no word has a second
spelling. -/
def Obligations.DecodedWordIsTheEncoding : Prop :=
  ∀ (w : Word) (i : Instr), decode w = .op i → encode i = w

/-- Rules R75, R76: the words that do not decode are exactly those with an opcode outside the ten or a reserved bit set. -/
def Obligations.IllegalWordsAreExactlyThese : Prop :=
  ∀ w : Word, (∃ why, decode w = .illegal why) ↔ illegalWord w.toNat = true

/-- Rules R72, R74, R81: words written out from the format table, one or more of each format, decode to their operations. -/
def Obligations.WrittenWordsDecode : Prop :=
  decode 0x0100000000000000#64 = .op .reset ∧
  decode 0x0200000000000000#64 = .op .configure ∧
  decode 0x0300000000000000#64 = .op .verify ∧
  decode 0x10000000000000C8#64 = .op (.setFrequency 200#8) ∧
  decode 0x11FFFFFF18054AC0#64 = .op (.applyFrequency 403000000#32 0xFFFFFF#24) ∧
  decode 0x12000000000009C4#64 = .op (.setDataRate 2500#16) ∧
  decode 0x15000000000000FD#64 = .op (.adjustCrystal 0xFD#8) ∧
  decode 0x20FFFFF000C80011#64 = .op (.transmit 0xFFFFF0#24 17#16 200#16)

/-- Rule R70: the bytes a word is written as are its bits from the most significant byte down, and read back as the word. -/
def Obligations.WordBytesAreBigEndian : Prop :=
  ∀ w : Word, (beNat (bytesOfWord w) = w.toNat ∧ (bytesOfWord w).length = 8) ∧ wordOfBytes (bytesOfWord w) = some w

/-- Rules R79, R81: a line in range assembles to the words that decode to its operations, signed operands in two's
complement, a modulation name as its code; a line with an operand out of range encodes no word. -/
def Obligations.AssembledLinesDecode : Prop :=
  (∀ l : Line, l.wf = true → ∃ ws, assemble l = some ws ∧ ws.map decode = (lineOperations l).map Decoded.op) ∧
  (∀ l : Line, l.wf = false → assemble l = none) ∧
  (∀ (f : Nat) (a : Int), (Line.applyFrequency f a).wf = true →
    ∃ fb ab, lineOperations (.applyFrequency f a) = [.applyFrequency fb ab] ∧ fb.toNat = f ∧ ab.toInt = a) ∧
  (∀ a : Int, (Line.adjustCrystal a).wf = true →
    ∃ ab, lineOperations (.adjustCrystal a) = [.adjustCrystal ab] ∧ ab.toInt = a) ∧
  (∀ p n k : Nat, (Line.transmit p n k).wf = true →
    ∃ pb nb kb, lineOperations (.transmit p n k) = [.transmit pb nb kb] ∧ pb.toNat = p ∧ nb.toNat = n ∧ kb.toNat = k) ∧
  (∀ c : Nat, (Line.setFrequency c).wf = true → ∃ cb, lineOperations (.setFrequency c) = [.setFrequency cb] ∧ cb.toNat = c) ∧
  (∀ b : Nat, (Line.setDataRate b).wf = true → ∃ bb, lineOperations (.setDataRate b) = [.setDataRate bb] ∧ bb.toNat = b) ∧
  (∀ m : Nat, (Line.setModulation (.code m)).wf = true →
    ∃ mb, lineOperations (.setModulation (.code m)) = [.setModulation mb] ∧ mb.toNat = m) ∧
  (lineOperations (.setModulation (.name .fsk2Packet)) = [.setModulation 0#8] ∧
    lineOperations (.setModulation (.name .cwPn9)) = [.setModulation 1#8] ∧
    lineOperations (.setModulation (.name .fsk2Pn9)) = [.setModulation 2#8] ∧
    lineOperations (.setModulation (.name .fsk2LegacyPacket)) = [.setModulation 3#8]) ∧
  (∀ v : Nat, (Line.setPower v).wf = true → ∃ vb, lineOperations (.setPower v) = [.setPower vb] ∧ vb.toNat = v) ∧
  (lineOperations .reset = [.reset] ∧ lineOperations .configure = [.configure] ∧ lineOperations .verify = [.verify])

/-- Rule R80: `BOOT` is the three words of RESET, CONFIGURE and VERIFY, in that order. -/
def Obligations.BootExpandsToThreeWords : Prop :=
  assemble .boot = some [0x0100000000000000#64, 0x0200000000000000#64, 0x0300000000000000#64]

/-! ### One step -/

/-- Rules R70, R271: an idle block whose next word decodes to an operation runs exactly that operation, the word taken from
the host's program (log entry 6). -/
def Obligations.StepRunsDecodedOperation : Prop :=
  ∀ (s : State) (w : Word) (rest : List Word) (i : Instr),
    s.seq = .idle → s.program = w :: rest → decode w = .op i → step s = exec i { s with program := rest }

/-- Rule R77: the 246 other opcodes and every word with a reserved bit set end at once with `IllegalOperation` (13), with no
transaction and no other change, in every lifecycle state. -/
def Obligations.IllegalWordEndsAtOnce : Prop :=
  ((List.range 256).filter fun opc => !legalOpcodes.contains opc).length = 246 ∧
  Status.code .illegalOperation = 13#8 ∧
  ∀ (s : State) (w : Word) (rest : List Word),
    s.seq = .idle → s.program = w :: rest → illegalWord w.toNat = true →
      step s = .next { s with program := rest, status := .illegalOperation, errIndex := 0#16 }

/-- Rules R243, R271: an idle block with no word to take keeps all state (the model's reading of "waits", log entry 11). -/
def Obligations.IdleBlockKeepsAllState : Prop :=
  ∀ s : State, s.seq = .idle → s.program = [] → step s = .next s

/-- The host's placing of a word: the very next step runs it, on whatever state (log entry 6). -/
def Obligations.PlacedWordRunsNext : Prop :=
  ∀ (s : State) (w : Nat) (i : Instr), decode (BitVec.ofNat 64 w) = .op i →
    step (s.withFetchWord 64 w) = exec i { s with seq := .idle, program := s.program.tail }

/-- The decoder read through the opcode table's numbering of the bits is the decoder of rule R75. -/
def Obligations.TableWordDecodesAsTheWord : Prop :=
  ∀ (w : Word) (i : Instr), decodeTableWord 64 w.toNat = some i ↔ decode w = .op i

/-- Rules R62, R237: an operation run to its end is its next transaction and then the rest run to the end, so that the bound
the run is given plays no part. -/
def Obligations.OperationIsItsTransactionsInOrder : Prop :=
  ∀ s t : State, s.seq ≠ .idle → advance s = .next t → runToEnd s = runToEnd t

/-- Rule R264 (I18): an operation issued while `BUSY = 1` is given no meaning; the model's form of that is a refusal (log
entry 15). -/
def Obligations.BusyBlockTakesNoOperation : Prop :=
  ∀ (s : State) (i : Instr), s.seq ≠ .idle → exec i s = .refused .issuedWhileBusy

/-! ### 40_lifecycle.md -/

/-- Rule R102: an operation that may not run in its lifecycle state ends with `Halted` in `HALTED` and `NotReady` elsewhere,
with no transaction and no other change; one that may run never ends with either. -/
def Obligations.GuardEndsWithStatusOnly : Prop :=
  ∀ (i : Instr) (s : State), s.seq = .idle →
    (mayRun i s.lc = false → exec i s = .next s.guardedOut) ∧
    (∀ t, mayRun i s.lc = true → exec i s = .next t → t.status ≠ .notReady ∧ t.status ≠ .halted)

/-- Rule R105: RESET runs in every lifecycle state; its one transaction's success gives `RESET_DONE`, its failure `HALTED`;
nothing else changes; no other operation leaves `HALTED`. -/
def Obligations.ResetOperation : Prop :=
  encode .reset = 0x0100000000000000#64 ∧
  ∀ s : State, s.seq = .idle →
    (s.answerAt 0 .reset = .ok [] →
      exec .reset s = .next { s.endedWith .ok 0#16 [⟨.reset, .ok []⟩] with lc := .resetDone }) ∧
    (s.answerAt 0 .reset = .fail →
      exec .reset s = .next { s.endedWith .transportError 0#16 [⟨.reset, .fail⟩] with lc := .halted }) ∧
    (∀ (i : Instr) (t : State), i ≠ .reset → s.lc = .halted → exec i s = .next t → t.lc = .halted)

/-- Rules R103, R104, R106: CONFIGURE replays the table in index order. When every entry is written it ends `OK` in
`CONFIGURING` with exactly the table's writes in the trace; at the first failure, at index `i`, it ends with
`TransportError`, `ERR_INDEX = i` and `HALTED`, with entries 0 to `i` in the trace and no other. -/
def Obligations.ConfigureReplaysTheTable : Prop :=
  encode .configure = 0x0200000000000000#64 ∧
  ∀ s : State, s.seq = .idle →
    (s.lc = .unreset ∨ s.lc = .halted → exec .configure s = .next s.guardedOut) ∧
    (s.lc = .resetDone ∨ s.lc = .configuring ∨ s.lc = .ready →
      ((∀ (i : Nat) (e : CfgEntry), s.cfg.params.cfgTable[i]? = some e → s.answerAt i (tableWrite e) = .ok []) →
        exec .configure s =
          .next { s.endedWith .ok 0#16 (s.cfg.params.cfgTable.map fun e => ⟨tableWrite e, .ok []⟩) with
            lc := .configuring }) ∧
      (∀ (i : Nat) (e : CfgEntry), s.cfg.params.cfgTable[i]? = some e →
        (∀ (j : Nat) (d : CfgEntry), j < i → s.cfg.params.cfgTable[j]? = some d → s.answerAt j (tableWrite d) = .ok []) →
        s.answerAt i (tableWrite e) = .fail →
        exec .configure s =
          .next { s.endedWith .transportError (BitVec.ofNat 16 i)
              ((s.cfg.params.cfgTable.take i).map (fun d => ⟨tableWrite d, .ok []⟩) ++ [⟨tableWrite e, .fail⟩]) with
            lc := .halted }))

/-- Rule R107: VERIFY reads the part identifier once. Equal to `EXPECTED_PART_ID`: `READY`; different: `HardwareMismatch`
and `HALTED`; a failed read: `TransportError` and `HALTED`. -/
def Obligations.VerifyComparesThePart : Prop :=
  encode .verify = 0x0300000000000000#64 ∧
  ∀ s : State, s.seq = .idle →
    (s.lc ≠ .configuring → s.lc ≠ .ready → exec .verify s = .next s.guardedOut) ∧
    (s.lc = .configuring ∨ s.lc = .ready →
      (∀ hi lo : Byte, s.answerAt 0 .readPartInfo = .ok [hi, lo] → s.cfg.params.expectedPartId = hi ++ lo →
        exec .verify s = .next { s.endedWith .ok 0#16 [⟨.readPartInfo, .ok [hi, lo]⟩] with lc := .ready }) ∧
      (∀ hi lo : Byte, s.answerAt 0 .readPartInfo = .ok [hi, lo] → s.cfg.params.expectedPartId ≠ hi ++ lo →
        exec .verify s =
          .next { s.endedWith .hardwareMismatch 0#16 [⟨.readPartInfo, .ok [hi, lo]⟩] with lc := .halted }) ∧
      (s.answerAt 0 .readPartInfo = .fail →
        exec .verify s = .next { s.endedWith .transportError 0#16 [⟨.readPartInfo, .fail⟩] with lc := .halted }))

/-- Rules R101, R236: what each operation leaves in `LC`. A failure of RESET, CONFIGURE or VERIFY past its guard is fatal
(`HALTED`); every other operation leaves `LC` as it was, however it ends. -/
def Obligations.LifecycleTransitions : Prop :=
  ∀ (i : Instr) (s t : State), s.seq = .idle → exec i s = .next t →
    t.lc =
      (if mayRun i s.lc = false then s.lc
      else match i with
        | .reset => if t.status = .ok then .resetDone else .halted
        | .configure => if t.status = .ok then .configuring else .halted
        | .verify => if t.status = .ok then .ready else .halted
        | _ => s.lc)

/-- Rule R236: from `HALTED` the only step that leaves it is a RESET that ends `OK`. -/
def Obligations.OnlyResetLeavesHalted : Prop :=
  ∀ s t : State, s.seq = .idle → s.lc = .halted → step s = .next t → t.lc ≠ .halted →
    t.lc = .resetDone ∧ t.status = .ok ∧ ∃ (w : Word) (rest : List Word), s.program = w :: rest ∧ decode w = .op .reset

/-- Rules R80, R263: RESET, CONFIGURE and VERIFY one after the other, every answer a success and the part the expected one,
bring the block from any lifecycle state to `READY`, with the channel and the data rate as they were. -/
def Obligations.BootSequenceReachesReady : Prop :=
  ∀ (s : State) (hi lo : Byte), s.seq = .idle →
    (∀ (n : Nat) (tx : Transaction), n < s.cfg.params.cfgTable.length + 2 →
      ∃ bytes, s.answerAt n tx = .ok bytes) →
    s.answerAt (s.cfg.params.cfgTable.length + 1) .readPartInfo = .ok [hi, lo] →
    s.cfg.params.expectedPartId = hi ++ lo →
    ∃ a b c : State, exec .reset s = .next a ∧ exec .configure a = .next b ∧ exec .verify b = .next c ∧
      a.lc = .resetDone ∧ b.lc = .configuring ∧ c.lc = .ready ∧
      a.status = .ok ∧ b.status = .ok ∧ c.status = .ok ∧
      c.curChannel = s.curChannel ∧ c.curDataRate = s.curDataRate ∧
      c.trace.length = s.trace.length + s.cfg.params.cfgTable.length + 2

/-! ### 41_synthesizer.md -/

/-- Rule R133: SET_FREQUENCY stores the requested channel or `CHANNEL_LIMIT_UPPER`, whichever is less, and issues no
transaction. -/
def Obligations.SetFrequencyStoresClampedChannel : Prop :=
  ∀ (s : State) (channel : BitVec 8), s.seq = .idle →
    (encode (.setFrequency channel)).toNat = 0x10 * 2 ^ 56 + channel.toNat ∧
    (s.lc ≠ .ready → exec (.setFrequency channel) s = .next s.guardedOut) ∧
    (s.lc = .ready →
      exec (.setFrequency channel) s =
        .next { s.endedWith .ok 0#16 [] with
          curChannel := BitVec.ofNat 8 (min channel.toNat s.cfg.params.channelLimitUpper.toNat) })

/-- Rules R15, R131, R134, R135: the machine's integer computation of the fractional word is the exact rational formula,
rounded half toward plus infinity, for every configuration and every frequency. -/
def Obligations.FractionWordIsTheRoundedFraction : Prop :=
  ∀ (c : Config) (freqHz : BitVec 32), fractionWord c.params freqHz = roundedFraction c.params freqHz

/-- Rules R138, R141: with the band and the reference divisor of rule R8, the low band gives `W0` in 282,309..524,288 and the
high band in 0..241,979, both ends reached; no frequency gives a rounding tie, and no adjustment a word of `2^28` or more. -/
def Obligations.FractionWordRangesAtDefault : Prop :=
  ∀ p : Params, p.freqMinHz = 400000000#32 → p.freqMaxHz = 406000000#32 → p.bandMidHz = 403000000#32 →
    p.intLow = 61#8 → p.intHigh = 62#8 → p.refDivisorHz = 6500000 →
    ∀ f : BitVec 32, inBand p f = true →
      (f.toNat < 403000000 → 282309 ≤ fractionWord p f ∧ fractionWord p f ≤ 524288) ∧
      (403000000 ≤ f.toNat → 0 ≤ fractionWord p f ∧ fractionWord p f ≤ 241979) ∧
      (f.toNat = 400000000 → fractionWord p f = 282309) ∧
      (402999994 ≤ f.toNat → f.toNat ≤ 402999999 → fractionWord p f = 524288) ∧
      (f.toNat = 403000000 → fractionWord p f = 0) ∧
      (f.toNat = 406000000 → fractionWord p f = 241979) ∧
      (2 * fractionNumerator p f + 6500000) % 13000000 ≠ 0 ∧
      (∀ adj : BitVec 24, adjustedWord p f adj < 2 ^ 28)

/-- Rules R134 to R139: APPLY_FREQUENCY. A frequency outside the band or a word outside `[0, 2^28)` ends with
`FrequencyOutOfRange` and no transaction; otherwise one five-byte property write carries the band integer minus one and the
word `W = round((freq/ref - N) * 2^19) + ADJ`, most significant byte first, its top byte only the high nibble. -/
def Obligations.ApplyFrequencyWritesTheWord : Prop :=
  ∀ (s : State) (f : BitVec 32) (adj : BitVec 24), s.seq = .idle →
    (encode (.applyFrequency f adj)).toNat = 0x11 * 2 ^ 56 + (adj.toInt % 2 ^ 24).toNat * 2 ^ 32 + f.toNat ∧
    (s.lc ≠ .ready → exec (.applyFrequency f adj) s = .next s.guardedOut) ∧
    (s.lc = .ready →
      (f < s.cfg.params.freqMinHz ∨ s.cfg.params.freqMaxHz < f →
        exec (.applyFrequency f adj) s = .next (s.endedWith .frequencyOutOfRange 0#16 [])) ∧
      (roundedFraction s.cfg.params f + adj.toInt < 0 ∨ 2 ^ 28 ≤ roundedFraction s.cfg.params f + adj.toInt →
        exec (.applyFrequency f adj) s = .next (s.endedWith .frequencyOutOfRange 0#16 [])) ∧
      (s.cfg.params.freqMinHz ≤ f → f ≤ s.cfg.params.freqMaxHz →
        0 ≤ roundedFraction s.cfg.params f + adj.toInt → roundedFraction s.cfg.params f + adj.toInt < 2 ^ 28 →
        ∃ b0 b1 b2 b3 b4 : Byte,
          b0.toNat + 1 =
            (if f.toNat < s.cfg.params.bandMidHz.toNat then s.cfg.params.intLow.toNat
            else s.cfg.params.intHigh.toNat) ∧
          b1.toNat < 16 ∧
          ((b1.toNat * 2 ^ 24 + b2.toNat * 2 ^ 16 + b3.toNat * 2 ^ 8 + b4.toNat : Nat) : Int) =
            roundedFraction s.cfg.params f + adj.toInt ∧
          (s.answerAt 0 (.setProperty s.cfg.params.freqGroup s.cfg.params.freqOffset 5#8 [b0, b1, b2, b3, b4]) = .ok [] →
            exec (.applyFrequency f adj) s =
              .next (s.endedWith .ok 0#16
                [⟨.setProperty s.cfg.params.freqGroup s.cfg.params.freqOffset 5#8 [b0, b1, b2, b3, b4], .ok []⟩])) ∧
          (s.answerAt 0 (.setProperty s.cfg.params.freqGroup s.cfg.params.freqOffset 5#8 [b0, b1, b2, b3, b4]) = .fail →
            exec (.applyFrequency f adj) s =
              .next (s.endedWith .transportError 0#16
                [⟨.setProperty s.cfg.params.freqGroup s.cfg.params.freqOffset 5#8 [b0, b1, b2, b3, b4], .fail⟩]))))

/-- Rule R140: what APPLY_FREQUENCY issues depends on the frequency, the adjustment and the parameters alone: two blocks in
`READY` with the same parameters issue the same transactions, whatever else differs between them. -/
def Obligations.ApplyFrequencyIsDeterministic : Prop :=
  ∀ (s s' t t' : State) (f : BitVec 32) (adj : BitVec 24),
    s.lc = .ready → s'.lc = .ready → s.cfg.params = s'.cfg.params →
    exec (.applyFrequency f adj) s = .next t → exec (.applyFrequency f adj) s' = .next t' →
    (t.trace.drop s.trace.length).map Event.tx = (t'.trace.drop s'.trace.length).map Event.tx

/-! ### 42_datarate.md -/

/-- Rules R160 to R165: SET_DATA_RATE reads four bytes back, divides the 26-bit NCO mode by the crystal frequency, and only
then multiplies by `BPS * TXOSR`. A value of 24 bits is written most significant byte first, and only a write that succeeds
changes `CUR_DATA_RATE`; a larger value, a failed read or a failed write leaves it as it was. -/
def Obligations.SetDataRateScalesAndWrites : Prop :=
  ∀ (s : State) (bps : BitVec 16), s.seq = .idle →
    (encode (.setDataRate bps)).toNat = 0x12 * 2 ^ 56 + bps.toNat ∧
    (s.lc ≠ .ready → exec (.setDataRate bps) s = .next s.guardedOut) ∧
    (s.lc = .ready →
      (s.answerAt 0 (.getProperty s.cfg.params.ncoGroup s.cfg.params.ncoOffset 4#8) = .fail →
        exec (.setDataRate bps) s =
          .next (s.endedWith .transportError 0#16
            [⟨.getProperty s.cfg.params.ncoGroup s.cfg.params.ncoOffset 4#8, .fail⟩])) ∧
      (∀ r0 r1 r2 r3 : Byte,
        s.answerAt 0 (.getProperty s.cfg.params.ncoGroup s.cfg.params.ncoOffset 4#8) = .ok [r0, r1, r2, r3] →
        let dr := scaledDataRate s.cfg.params bps.toNat
          (r0.toNat * 2 ^ 24 + r1.toNat * 2 ^ 16 + r2.toNat * 2 ^ 8 + r3.toNat)
        (2 ^ 24 ≤ dr →
          exec (.setDataRate bps) s =
            .next (s.endedWith .dataRateOutOfRange 0#16
              [⟨.getProperty s.cfg.params.ncoGroup s.cfg.params.ncoOffset 4#8, .ok [r0, r1, r2, r3]⟩])) ∧
        (dr < 2 ^ 24 →
          ∃ d0 d1 d2 : Byte, d0.toNat * 2 ^ 16 + d1.toNat * 2 ^ 8 + d2.toNat = dr ∧
            (s.answerAt 1 (.setProperty s.cfg.params.drGroup s.cfg.params.drOffset 3#8 [d0, d1, d2]) = .ok [] →
              exec (.setDataRate bps) s =
                .next { s.endedWith .ok 0#16
                    [⟨.getProperty s.cfg.params.ncoGroup s.cfg.params.ncoOffset 4#8, .ok [r0, r1, r2, r3]⟩,
                     ⟨.setProperty s.cfg.params.drGroup s.cfg.params.drOffset 3#8 [d0, d1, d2], .ok []⟩] with
                  curDataRate := bps }) ∧
            (s.answerAt 1 (.setProperty s.cfg.params.drGroup s.cfg.params.drOffset 3#8 [d0, d1, d2]) = .fail →
              exec (.setDataRate bps) s =
                .next (s.endedWith .transportError 0#16
                    [⟨.getProperty s.cfg.params.ncoGroup s.cfg.params.ncoOffset 4#8, .ok [r0, r1, r2, r3]⟩,
                     ⟨.setProperty s.cfg.params.drGroup s.cfg.params.drOffset 3#8 [d0, d1, d2], .fail⟩])))))

/-- Rule R165's corner: with a crystal above `2^26 / 7` Hz the data-rate value is at most 15,728,400, so it fits the register
whatever the read-back and the rate. -/
def Obligations.LargeCrystalFitsEveryRate : Prop :=
  ∀ (p : Params) (bps : BitVec 16) (r : BitVec 32), 2 ^ 26 < 7 * p.xtalFreqHz →
    dataRateValue p bps r ≤ 15728400 ∧ dataRateFits (dataRateValue p bps r) = true

/-- Rule R165: only a SET_DATA_RATE that ends `OK` changes `CUR_DATA_RATE`, and it stores the rate it was given. -/
def Obligations.DataRateStoredOnlyOnSuccess : Prop :=
  ∀ (s t : State) (bps : BitVec 16), exec (.setDataRate bps) s = .next t →
    (t.status = .ok → t.curDataRate = bps) ∧ (t.status ≠ .ok → t.curDataRate = s.curDataRate)

/-! ### 43_link_control.md -/

/-- Rules R180, R181: SET_MODULATION writes the variant's one byte for modes 0 to 3 and ends with `InvalidModulation`, no
transaction, for the others. -/
def Obligations.SetModulationWritesVariantByte : Prop :=
  ∀ (s : State) (mode : BitVec 8), s.seq = .idle →
    (encode (.setModulation mode)).toNat = 0x13 * 2 ^ 56 + mode.toNat ∧
    (s.lc ≠ .ready → exec (.setModulation mode) s = .next s.guardedOut) ∧
    (s.lc = .ready →
      (3 < mode.toNat → exec (.setModulation mode) s = .next (s.endedWith .invalidModulation 0#16 [])) ∧
      (∀ m : Byte,
        [s.cfg.params.modByteFsk2Packet, s.cfg.params.modByteCwPn9, s.cfg.params.modByteFsk2Pn9,
          s.cfg.params.modByteFsk2Legacy][mode.toNat]? = some m →
        (s.answerAt 0 (.setProperty s.cfg.params.modGroup s.cfg.params.modOffset 1#8 [m]) = .ok [] →
          exec (.setModulation mode) s =
            .next (s.endedWith .ok 0#16
              [⟨.setProperty s.cfg.params.modGroup s.cfg.params.modOffset 1#8 [m], .ok []⟩])) ∧
        (s.answerAt 0 (.setProperty s.cfg.params.modGroup s.cfg.params.modOffset 1#8 [m]) = .fail →
          exec (.setModulation mode) s =
            .next (s.endedWith .transportError 0#16
              [⟨.setProperty s.cfg.params.modGroup s.cfg.params.modOffset 1#8 [m], .fail⟩]))))

/-- Rule R182: SET_POWER writes the level it was given, every level, unchecked. -/
def Obligations.SetPowerPassesTheLevelThrough : Prop :=
  ∀ (s : State) (level : BitVec 8), s.seq = .idle →
    (encode (.setPower level)).toNat = 0x14 * 2 ^ 56 + level.toNat ∧
    (s.lc ≠ .ready → exec (.setPower level) s = .next s.guardedOut) ∧
    (s.lc = .ready →
      (s.answerAt 0 (.setProperty s.cfg.params.pwrGroup s.cfg.params.pwrOffset 1#8 [level]) = .ok [] →
        exec (.setPower level) s =
          .next (s.endedWith .ok 0#16
            [⟨.setProperty s.cfg.params.pwrGroup s.cfg.params.pwrOffset 1#8 [level], .ok []⟩])) ∧
      (s.answerAt 0 (.setProperty s.cfg.params.pwrGroup s.cfg.params.pwrOffset 1#8 [level]) = .fail →
        exec (.setPower level) s =
          .next (s.endedWith .transportError 0#16
            [⟨.setProperty s.cfg.params.pwrGroup s.cfg.params.pwrOffset 1#8 [level], .fail⟩])))

/-- Rules R183, R184: ADJUST_CRYSTAL writes `BASE_TRIM + ADJ8` where it lies in `[0, TRIM_MAX]`, the sign as given, and ends
with `TrimOutOfRange`, no transaction, elsewhere. -/
def Obligations.AdjustCrystalWritesTheTrim : Prop :=
  ∀ (s : State) (adj : BitVec 8), s.seq = .idle →
    (encode (.adjustCrystal adj)).toNat = 0x15 * 2 ^ 56 + (adj.toInt % 256).toNat ∧
    (s.lc ≠ .ready → exec (.adjustCrystal adj) s = .next s.guardedOut) ∧
    (s.lc = .ready →
      ((s.cfg.params.baseTrim.toNat : Int) + adj.toInt < 0 ∨
          (s.cfg.params.trimMax.toNat : Int) < (s.cfg.params.baseTrim.toNat : Int) + adj.toInt →
        exec (.adjustCrystal adj) s = .next (s.endedWith .trimOutOfRange 0#16 [])) ∧
      (∀ v : Byte, (v.toNat : Int) = (s.cfg.params.baseTrim.toNat : Int) + adj.toInt → v ≤ s.cfg.params.trimMax →
        (s.answerAt 0 (.setProperty s.cfg.params.trimGroup s.cfg.params.trimOffset 1#8 [v]) = .ok [] →
          exec (.adjustCrystal adj) s =
            .next (s.endedWith .ok 0#16
              [⟨.setProperty s.cfg.params.trimGroup s.cfg.params.trimOffset 1#8 [v], .ok []⟩])) ∧
        (s.answerAt 0 (.setProperty s.cfg.params.trimGroup s.cfg.params.trimOffset 1#8 [v]) = .fail →
          exec (.adjustCrystal adj) s =
            .next (s.endedWith .transportError 0#16
              [⟨.setProperty s.cfg.params.trimGroup s.cfg.params.trimOffset 1#8 [v], .fail⟩]))))

/-! ### 44_fifo_transmit.md -/

/-- Rules R202, R207: the word of TRANSMIT, `PADDR`, `FRAMECOUNT` and `LEN` each in its place; and its checks before any
transaction, in their order, each ending with no transaction: the guard, zero length (success), `PayloadTooLarge`,
`InvalidFraming`, `BufferOutOfRange`. -/
def Obligations.TransmitChecksInOrder : Prop :=
  ∀ (s : State) (paddr : BitVec 24) (len framecount : BitVec 16), s.seq = .idle →
    (encode (.transmit paddr len framecount)).toNat =
      0x20 * 2 ^ 56 + paddr.toNat * 2 ^ 32 + framecount.toNat * 2 ^ 16 + len.toNat ∧
    (s.lc ≠ .ready → exec (.transmit paddr len framecount) s = .next s.guardedOut) ∧
    (s.lc = .ready →
      (len = 0#16 → exec (.transmit paddr len framecount) s = .next (s.endedWith .ok 0#16 [])) ∧
      (len ≠ 0#16 → s.cfg.params.maxPacketLen < len →
        exec (.transmit paddr len framecount) s = .next (s.endedWith .payloadTooLarge 0#16 [])) ∧
      (len ≠ 0#16 → len ≤ s.cfg.params.maxPacketLen → framingConstant framecount.toNat = none →
        exec (.transmit paddr len framecount) s = .next (s.endedWith .invalidFraming 0#16 [])) ∧
      (len ≠ 0#16 → len ≤ s.cfg.params.maxPacketLen → framingConstant framecount.toNat ≠ none →
        2 ^ 24 < paddr.toNat + len.toNat →
        exec (.transmit paddr len framecount) s = .next (s.endedWith .bufferOutOfRange 0#16 [])))

/-- Rules R203, R206, R207: a payload that fits the FIFO is written whole in one write with no poll, and the start-transmit
carries the stored channel, the start condition and the framing constant. -/
def Obligations.ShortTransmitIsOneWriteAndStart : Prop :=
  ∀ (s : State) (paddr : BitVec 24) (len framecount : BitVec 16) (code : BitVec 16),
    s.seq = .idle → s.lc = .ready → len ≠ 0#16 → len ≤ s.cfg.params.maxPacketLen →
    framingConstant framecount.toNat = some code → paddr.toNat + len.toNat ≤ 2 ^ 24 →
    len.toNat ≤ s.cfg.params.fifoCapacity →
    s.answerAt 0 (.writeFifo (s.payload paddr len)) = .ok [] →
    s.answerAt 1 (.startTx s.curChannel s.cfg.params.startTxCondition code) = .ok [] →
    exec (.transmit paddr len framecount) s =
      .next (s.endedWith .ok 0#16
        [⟨.writeFifo (s.payload paddr len), .ok []⟩,
         ⟨.startTx s.curChannel s.cfg.params.startTxCondition code, .ok []⟩])

/-- Rules R203 to R207: when every transaction succeeds and the first poll of every wait reports enough space, TRANSMIT ends
`OK` after one write, then one poll and one write for each wait, then the start-transmit, each in its slot; the writes carry
exactly the payload, and nothing else in the state changes. -/
def Obligations.TransmitCompletesWhenSpaceIsReported : Prop :=
  ∀ (s : State) (paddr : BitVec 24) (len framecount : BitVec 16) (code : BitVec 16),
    s.seq = .idle → s.lc = .ready → len ≠ 0#16 → len ≤ s.cfg.params.maxPacketLen →
    framingConstant framecount.toNat = some code → paddr.toNat + len.toNat ≤ 2 ^ 24 →
    (∀ (j : Nat) (bytes : List Byte), j ≤ transmitWaits s.cfg.params len.toNat →
      s.answerAt (2 * j) (.writeFifo bytes) = .ok []) →
    (∀ j : Nat, j < transmitWaits s.cfg.params len.toNat →
      ∃ free : Byte, s.answerAt (2 * j + 1) .readFifoFreeSpace = .ok [free] ∧ s.cfg.params.chunkSize ≤ free.toNat) →
    s.answerAt (2 * transmitWaits s.cfg.params len.toNat + 1)
      (.startTx s.curChannel s.cfg.params.startTxCondition code) = .ok [] →
    ∃ events : List Event,
      exec (.transmit paddr len framecount) s = .next (s.endedWith .ok 0#16 events) ∧
      events.length = 2 + 2 * transmitWaits s.cfg.params len.toNat ∧
      events[0]? = some (writeEvent (firstChunk s.cfg.params (s.payload paddr len))) ∧
      (∀ j : Nat, j < transmitWaits s.cfg.params len.toNat →
        events[2 * j + 1]? = some ⟨.readFifoFreeSpace, s.answerAt (2 * j + 1) .readFifoFreeSpace⟩ ∧
        events[2 * j + 2]? = some (writeEvent (laterChunk s.cfg.params (s.payload paddr len) j))) ∧
      events[2 * transmitWaits s.cfg.params len.toNat + 1]? =
        some ⟨.startTx s.curChannel s.cfg.params.startTxCondition code, .ok []⟩ ∧
      (fifoWrites events).flatten = s.payload paddr len

/-- Rule R208: a TRANSMIT that reaches the start-transmit has written exactly the payload, in order, each byte once: first
`min(LEN, FIFO_CAPACITY)` bytes, then chunks of exactly `CHUNK_SIZE` bytes but for a last one that may be shorter. -/
def Obligations.TransmitWritesCarryThePayload : Prop :=
  ∀ (s t : State) (paddr : BitVec 24) (len framecount : BitVec 16) (events : List Event),
    exec (.transmit paddr len framecount) s = .next t → t.trace = s.trace ++ events →
    startsTransmission events = true →
    (fifoWrites events).flatten = s.payload paddr len ∧
    (fifoWrites events).length = 1 + transmitWaits s.cfg.params len.toNat ∧
    (∃ (first : List Byte) (chunks : List (List Byte)), fifoWrites events = first :: chunks ∧
      first.length = min len.toNat s.cfg.params.fifoCapacity ∧
      (∀ c ∈ chunks, 1 ≤ c.length ∧ c.length ≤ s.cfg.params.chunkSize) ∧
      (∀ c ∈ chunks.dropLast, c.length = s.cfg.params.chunkSize))

/-- Rule R204: when the initial write succeeds and `POLL_LIMIT` polls of the first wait all report less than `CHUNK_SIZE`,
TRANSMIT ends with `FifoTimeout` after exactly those polls; no start-transmit is issued. -/
def Obligations.FifoTimeoutAfterPollLimit : Prop :=
  ∀ (s : State) (paddr : BitVec 24) (len framecount : BitVec 16) (code : BitVec 16) (free : List Byte),
    s.seq = .idle → s.lc = .ready → s.cfg.params.fifoCapacity < len.toNat → len ≤ s.cfg.params.maxPacketLen →
    framingConstant framecount.toNat = some code → paddr.toNat + len.toNat ≤ 2 ^ 24 →
    s.answerAt 0 (.writeFifo ((s.payload paddr len).take s.cfg.params.fifoCapacity)) = .ok [] →
    free.length = s.cfg.params.pollLimit →
    (∀ (n : Nat) (b : Byte), free[n]? = some b →
      s.answerAt (n + 1) .readFifoFreeSpace = .ok [b] ∧ b.toNat < s.cfg.params.chunkSize) →
    exec (.transmit paddr len framecount) s =
      .next (s.endedWith .fifoTimeout 0#16
        (⟨.writeFifo ((s.payload paddr len).take s.cfg.params.fifoCapacity), .ok []⟩ ::
          free.map fun b => ⟨.readFifoFreeSpace, .ok [b]⟩))

/-- Rule R204: `POLLS` restarts at 0 for each wait. With fewer than `POLL_LIMIT` short polls in every wait, however many in
all, TRANSMIT goes on from each wait to its write, and from the last write to the start-transmit, and ends `OK`. -/
def Obligations.ShortPollsAreCountedPerWait : Prop :=
  ∀ (s : State) (paddr : BitVec 24) (len framecount : BitVec 16) (code : BitVec 16) (waits : List Wait) (events : List Event),
    s.seq = .idle → s.lc = .ready → len ≠ 0#16 → len ≤ s.cfg.params.maxPacketLen →
    framingConstant framecount.toNat = some code → paddr.toNat + len.toNat ≤ 2 ^ 24 →
    waits.length = transmitWaits s.cfg.params len.toNat → (∀ w ∈ waits, w.wf s.cfg.params = true) →
    events = streamEvents s.cfg.params (s.payload paddr len) waits ++
      [⟨.startTx s.curChannel s.cfg.params.startTxCondition code, .ok []⟩] →
    s.answersAs events →
    exec (.transmit paddr len framecount) s = .next (s.endedWith .ok 0#16 events)

/-- Rule R204: a later wait, after any number of waits that went on, ends TRANSMIT with `FifoTimeout` after exactly
`POLL_LIMIT` short polls of its own, and nothing is issued after them. -/
def Obligations.LaterWaitTimesOutOnItsOwnPolls : Prop :=
  ∀ (s : State) (paddr : BitVec 24) (len framecount : BitVec 16) (code : BitVec 16) (waits : List Wait) (short : List Byte)
    (events : List Event),
    s.seq = .idle → s.lc = .ready → len ≠ 0#16 → len ≤ s.cfg.params.maxPacketLen →
    framingConstant framecount.toNat = some code → paddr.toNat + len.toNat ≤ 2 ^ 24 →
    waits.length < transmitWaits s.cfg.params len.toNat → (∀ w ∈ waits, w.wf s.cfg.params = true) →
    short.length = s.cfg.params.pollLimit → tooShort s.cfg.params short = true →
    events = streamEvents s.cfg.params (s.payload paddr len) waits ++ short.map pollEvent →
    s.answersAs events →
    exec (.transmit paddr len framecount) s = .next (s.endedWith .fifoTimeout 0#16 events)

/-- Rules R204, R206, R207: every start-transmit that a TRANSMIT issues is its last transaction and carries the stored
channel, the start condition and the framing constant of its repeat count, never `LEN`; it ends `OK` if and only if that
transaction succeeded, and a TRANSMIT that ends otherwise without it ends with `FifoTimeout` or `TransportError`. Rules R54,
R235: a failed answer, of a write, a poll or the start-transmit, is the last, and it is what `TransportError` means. -/
def Obligations.StartTransmitComesLast : Prop :=
  ∀ (s t : State) (paddr : BitVec 24) (len framecount : BitVec 16) (events : List Event),
    s.lc = .ready → len ≠ 0#16 → exec (.transmit paddr len framecount) s = .next t → t.trace = s.trace ++ events →
    events ≠ [] →
    (∀ e ∈ events.dropLast, e.answer ≠ .fail) ∧
    (t.status = .transportError ↔ ∃ e, events.getLast? = some e ∧ e.answer = .fail) ∧
    (t.status = .ok ∧ startsTransmission events = true ∨
      t.status = .transportError ∨ (t.status = .fifoTimeout ∧ startsTransmission events = false)) ∧
    (startsTransmission events = true →
      ∃ (before : List Event) (code : BitVec 16) (answer : Response),
        framingConstant framecount.toNat = some code ∧ startsTransmission before = false ∧
        events = before ++ [⟨.startTx s.curChannel s.cfg.params.startTxCondition code, answer⟩] ∧
        (t.status = .ok ↔ answer ≠ .fail))

/-! ### 60_exceptions.md, 70_reset_and_hazards.md, 10_state.md -/

/-- Rules R23, R26, R230: the values of `STATUS` and `LC`; distinct, and no other value is ever held. -/
def Obligations.StatusAndLifecycleCodes : Prop :=
  ([Status.ok, .transportError, .hardwareMismatch, .frequencyOutOfRange, .invalidModulation, .payloadTooLarge, .fifoTimeout,
      .notReady, .halted, .dataRateOutOfRange, .trimOutOfRange, .invalidFraming, .bufferOutOfRange,
      .illegalOperation].map fun st => st.code.toNat) = List.range 14 ∧
  ([Lc.unreset, .resetDone, .configuring, .ready, .halted].map fun lc => lc.code.toNat) = List.range 5 ∧
  (∀ (v : BitVec 8) (st : Status), Status.ofCode v = some st ↔ st.code = v) ∧
  (∀ v : BitVec 8, Status.ofCode v = none ↔ 14 ≤ v.toNat) ∧
  (∀ (v : BitVec 3) (lc : Lc), Lc.ofCode v = some lc ↔ lc.code = v) ∧
  (∀ v : BitVec 3, Lc.ofCode v = none ↔ 5 ≤ v.toNat)

/-- Rule R231: the statuses each operation can end with. -/
def Obligations.OperationStatuses : Prop :=
  ∀ (i : Instr) (s t : State), exec i s = .next t → t.status ∈ possibleStatuses i

/-- Rule R27: `ERR_INDEX` is 0 after every operation but a CONFIGURE that ended with `TransportError`, and then it is the
index of the entry whose write failed, the last transaction of the trace. -/
def Obligations.ErrIndexNamesTheFailingEntry : Prop :=
  ∀ (i : Instr) (s t : State), exec i s = .next t →
    (¬(i = .configure ∧ t.status = .transportError) → t.errIndex = 0#16) ∧
    (i = .configure → t.status = .transportError →
      ∃ e, s.cfg.params.cfgTable[t.errIndex.toNat]? = some e ∧
        t.trace.getLast? = some ⟨tableWrite e, .fail⟩ ∧ t.trace.length = s.trace.length + t.errIndex.toNat + 1)

/-- Rules R24, R25, R29, R33, R50: the frame of every operation. `LC` changes only by RESET, CONFIGURE and VERIFY,
`CUR_CHANNEL` only by SET_FREQUENCY, `CUR_DATA_RATE` only by SET_DATA_RATE; no operation changes the parameters, a byte of
PMEM or the host's program; the trace only grows, and one answer is used for each transaction. -/
def Obligations.OperationFrame : Prop :=
  ∀ (i : Instr) (s t : State), exec i s = .next t →
    (i ≠ .reset → i ≠ .configure → i ≠ .verify → t.lc = s.lc) ∧
    ((∀ channel, i ≠ .setFrequency channel) → t.curChannel = s.curChannel) ∧
    ((∀ bps, i ≠ .setDataRate bps) → t.curDataRate = s.curDataRate) ∧
    t.cfg = s.cfg ∧ t.pmem = s.pmem ∧ t.program = s.program ∧ t.seq = .idle ∧
    (∀ a : Nat, t.pmem.read a = s.pmem.read a) ∧
    ∃ events : List Event, t.trace = s.trace ++ events ∧ t.answers = s.answers.drop events.length

/-- Rules R209, R270, R271: every operation ends, idle, after at most its bound of transactions, whatever the transport
answers: no operation faults and no run of one goes on for ever. -/
def Obligations.EveryOperationEnds : Prop :=
  ∀ (i : Instr) (s : State), s.seq = .idle →
    ∃ (t : State) (events : List Event), exec i s = .next t ∧ t.seq = .idle ∧
      t.trace = s.trace ++ events ∧ events.length ≤ transactionBound s.cfg.params i

/-- Rules R35, R260: what the host reads after power-on, for every configuration: `UNRESET`, the default channel and rate,
status `OK`, index 0, not busy, no hidden state; and so it reads in the machine's reset state. -/
def Obligations.PowerOnValues : Prop :=
  (∀ c : Config, (State.powerOn c).seq = .idle ∧ (State.powerOn c).hostView =
    { busy := 0#1, lc := 0#3, curChannel := c.params.defaultChannel, curDataRate := c.params.defaultDataRate,
      status := 0#8, errIndex := 0#16 }) ∧
  State.reset.seq = .idle ∧ State.reset.hostView =
    { busy := 0#1, lc := 0#3, curChannel := State.reset.cfg.params.defaultChannel,
      curDataRate := State.reset.cfg.params.defaultDataRate, status := 0#8, errIndex := 0#16 }

/-- Rule R28: `CUR_CHANNEL <= CHANNEL_LIMIT_UPPER` holds at power-on and every step keeps it. -/
def Obligations.ChannelNeverExceedsLimit : Prop :=
  (∀ c : Config, (State.powerOn c).curChannel ≤ c.params.channelLimitUpper) ∧
  ∀ s t : State, s.curChannel ≤ s.cfg.params.channelLimitUpper → step s = .next t →
    t.curChannel ≤ t.cfg.params.channelLimitUpper

/-- The invariant of the block holds after power-on, for every configuration. -/
def Obligations.InvariantAtPowerOn : Prop :=
  (∀ c : Config, (State.powerOn c).Inv) ∧ State.reset.Inv

/-- Rules R27, R28, R30, R53: every step keeps the invariant, from every state that meets it, reachable or not. -/
def Obligations.StepKeepsInvariant : Prop :=
  ∀ s t : State, s.Inv → step s = .next t → t.Inv

/-- Rules R30, R53: every single transaction of a running operation keeps the invariant: its shape is one of rule R53's and
the hidden sequencer state stays in its ranges. -/
def Obligations.TransactionKeepsInvariant : Prop :=
  ∀ s t : State, s.Inv → advance s = .next t → t.Inv

/-- Rules R12, R202, R271: from every state that meets the invariant the machine takes a step: it never faults and never
refuses, and the block is idle after it and meets the invariant again (log entries 4, 9). -/
def Obligations.StepNeverStops : Prop :=
  ∀ s : State, s.Inv → ∃ t, step s = .next t ∧ t.seq = .idle ∧ t.Inv

/-! ### 20_memory.md -/

/-- Rule R55: every multi-byte value the block puts in or takes from a transaction is big-endian: the frequency word and the
data rate it writes, the NCO mode and the part it reads, the u16 of the start-transmit; and PMEM bytes go out in ascending
address order. -/
def Obligations.MultiByteValuesAreBigEndian : Prop :=
  (∀ (n : Byte) (w : Int), 0 ≤ w → w < 2 ^ 28 →
    ∃ b3 b2 b1 b0 : Byte, frequencyBytes n w = [n - 1#8, b3, b2, b1, b0] ∧ (beNat [b3, b2, b1, b0] : Int) = w) ∧
  (∀ dr : Nat, dr < 2 ^ 24 →
    ∃ b2 b1 b0 : Byte, dataRateBytes dr = [b2, b1, b0] ∧ b2.toNat * 2 ^ 16 + b1.toNat * 2 ^ 8 + b0.toNat = dr) ∧
  (∀ b3 b2 b1 b0 : Byte, readBackWord [b3, b2, b1, b0] = b3 ++ b2 ++ b1 ++ b0) ∧
  (∀ hi lo : Byte, partOf [hi, lo] = hi ++ lo) ∧
  (∀ (channel condition : Byte) (lengthOrMode : BitVec 16),
    ∃ hi lo : Byte, (Transaction.startTx channel condition lengthOrMode).requestBytes = [channel, condition, hi, lo] ∧
      hi.toNat * 2 ^ 8 + lo.toNat = lengthOrMode.toNat) ∧
  (∀ (s : State) (paddr : BitVec 24) (len : BitVec 16) (i : Nat), i < len.toNat →
    ((Transaction.writeFifo (s.payload paddr len)).requestBytes)[i]? = some (s.pmem.read (paddr.toNat + i)))

/-- Rules R50, R65, R264: the host may write every byte of PMEM but those a running TRANSMIT borrows; the write changes that
byte and nothing else, and keeps the invariant (the model's host move, log entry 15). -/
def Obligations.HostWriteChangesOneByte : Prop :=
  ∀ (s : State) (addr : BitVec 24) (v : Byte), s.Inv →
    (s.borrowed addr.toNat = true → s.hostWrite addr v = .refused .payloadBorrowed) ∧
    (s.borrowed addr.toNat = false →
      ∃ t, s.hostWrite addr v = .next t ∧ t.Inv ∧ t = { s with pmem := t.pmem } ∧
        ∀ a : Nat, t.pmem.read a = if a = addr.toNat then v else s.pmem.read a)

/-- Two memories in canonical form that read the same everywhere are equal as data (the model's form, log entry 7). -/
def Obligations.CanonicalMemoryIsUnique : Prop :=
  ∀ m m' : Memory, m.wf = true → m'.wf = true → (∀ a : Nat, m.read a = m'.read a) → m = m'

/-- Rules R65, R207: what a TRANSMIT does depends on PMEM only through the payload it borrows: two states that differ only in
PMEM, and there only outside the payload, issue the same transactions, get the same answers and end alike. -/
def Obligations.TransmitReadsOnlyItsPayload : Prop :=
  ∀ (s t : State) (m : Memory) (paddr : BitVec 24) (len framecount : BitVec 16),
    (∀ a : Nat, paddr.toNat ≤ a → a < paddr.toNat + len.toNat → m.read a = s.pmem.read a) →
    exec (.transmit paddr len framecount) s = .next t →
    exec (.transmit paddr len framecount) { s with pmem := m } = .next { t with pmem := m }
end

