-- ==== Sys2Proof/Laws/State.lean ====
section
/-!
SUPPORT. What each update of Machine/Ops.lean does to each field of the state: one lemma per field per update.
-/

namespace Sys2Proof.Machine

variable (s : State)

@[simp] theorem State.setLc_cfg (v : Lc) : (s.setLc v).cfg = s.cfg := rfl
@[simp] theorem State.setLc_lc (v : Lc) : (s.setLc v).lc = v := rfl
@[simp] theorem State.setLc_curChannel (v : Lc) : (s.setLc v).curChannel = s.curChannel := rfl
@[simp] theorem State.setLc_curDataRate (v : Lc) : (s.setLc v).curDataRate = s.curDataRate := rfl
@[simp] theorem State.setLc_status (v : Lc) : (s.setLc v).status = s.status := rfl
@[simp] theorem State.setLc_errIndex (v : Lc) : (s.setLc v).errIndex = s.errIndex := rfl
@[simp] theorem State.setLc_seq (v : Lc) : (s.setLc v).seq = s.seq := rfl
@[simp] theorem State.setLc_pmem (v : Lc) : (s.setLc v).pmem = s.pmem := rfl
@[simp] theorem State.setLc_program (v : Lc) : (s.setLc v).program = s.program := rfl
@[simp] theorem State.setLc_answers (v : Lc) : (s.setLc v).answers = s.answers := rfl
@[simp] theorem State.setLc_trace (v : Lc) : (s.setLc v).trace = s.trace := rfl

@[simp] theorem State.setChannel_cfg (v : BitVec 8) : (s.setChannel v).cfg = s.cfg := rfl
@[simp] theorem State.setChannel_lc (v : BitVec 8) : (s.setChannel v).lc = s.lc := rfl
@[simp] theorem State.setChannel_curChannel (v : BitVec 8) : (s.setChannel v).curChannel = v := rfl
@[simp] theorem State.setChannel_curDataRate (v : BitVec 8) : (s.setChannel v).curDataRate = s.curDataRate := rfl
@[simp] theorem State.setChannel_status (v : BitVec 8) : (s.setChannel v).status = s.status := rfl
@[simp] theorem State.setChannel_errIndex (v : BitVec 8) : (s.setChannel v).errIndex = s.errIndex := rfl
@[simp] theorem State.setChannel_seq (v : BitVec 8) : (s.setChannel v).seq = s.seq := rfl
@[simp] theorem State.setChannel_pmem (v : BitVec 8) : (s.setChannel v).pmem = s.pmem := rfl
@[simp] theorem State.setChannel_program (v : BitVec 8) : (s.setChannel v).program = s.program := rfl
@[simp] theorem State.setChannel_answers (v : BitVec 8) : (s.setChannel v).answers = s.answers := rfl
@[simp] theorem State.setChannel_trace (v : BitVec 8) : (s.setChannel v).trace = s.trace := rfl

@[simp] theorem State.setDataRate_cfg (v : BitVec 16) : (s.setDataRate v).cfg = s.cfg := rfl
@[simp] theorem State.setDataRate_lc (v : BitVec 16) : (s.setDataRate v).lc = s.lc := rfl
@[simp] theorem State.setDataRate_curChannel (v : BitVec 16) : (s.setDataRate v).curChannel = s.curChannel := rfl
@[simp] theorem State.setDataRate_curDataRate (v : BitVec 16) : (s.setDataRate v).curDataRate = v := rfl
@[simp] theorem State.setDataRate_status (v : BitVec 16) : (s.setDataRate v).status = s.status := rfl
@[simp] theorem State.setDataRate_errIndex (v : BitVec 16) : (s.setDataRate v).errIndex = s.errIndex := rfl
@[simp] theorem State.setDataRate_seq (v : BitVec 16) : (s.setDataRate v).seq = s.seq := rfl
@[simp] theorem State.setDataRate_pmem (v : BitVec 16) : (s.setDataRate v).pmem = s.pmem := rfl
@[simp] theorem State.setDataRate_program (v : BitVec 16) : (s.setDataRate v).program = s.program := rfl
@[simp] theorem State.setDataRate_answers (v : BitVec 16) : (s.setDataRate v).answers = s.answers := rfl
@[simp] theorem State.setDataRate_trace (v : BitVec 16) : (s.setDataRate v).trace = s.trace := rfl

@[simp] theorem State.setSeq_cfg (v : Sequencer) : (s.setSeq v).cfg = s.cfg := rfl
@[simp] theorem State.setSeq_lc (v : Sequencer) : (s.setSeq v).lc = s.lc := rfl
@[simp] theorem State.setSeq_curChannel (v : Sequencer) : (s.setSeq v).curChannel = s.curChannel := rfl
@[simp] theorem State.setSeq_curDataRate (v : Sequencer) : (s.setSeq v).curDataRate = s.curDataRate := rfl
@[simp] theorem State.setSeq_status (v : Sequencer) : (s.setSeq v).status = s.status := rfl
@[simp] theorem State.setSeq_errIndex (v : Sequencer) : (s.setSeq v).errIndex = s.errIndex := rfl
@[simp] theorem State.setSeq_seq (v : Sequencer) : (s.setSeq v).seq = v := rfl
@[simp] theorem State.setSeq_pmem (v : Sequencer) : (s.setSeq v).pmem = s.pmem := rfl
@[simp] theorem State.setSeq_program (v : Sequencer) : (s.setSeq v).program = s.program := rfl
@[simp] theorem State.setSeq_answers (v : Sequencer) : (s.setSeq v).answers = s.answers := rfl
@[simp] theorem State.setSeq_trace (v : Sequencer) : (s.setSeq v).trace = s.trace := rfl

@[simp] theorem State.setPmem_cfg (v : Memory) : (s.setPmem v).cfg = s.cfg := rfl
@[simp] theorem State.setPmem_lc (v : Memory) : (s.setPmem v).lc = s.lc := rfl
@[simp] theorem State.setPmem_curChannel (v : Memory) : (s.setPmem v).curChannel = s.curChannel := rfl
@[simp] theorem State.setPmem_curDataRate (v : Memory) : (s.setPmem v).curDataRate = s.curDataRate := rfl
@[simp] theorem State.setPmem_status (v : Memory) : (s.setPmem v).status = s.status := rfl
@[simp] theorem State.setPmem_errIndex (v : Memory) : (s.setPmem v).errIndex = s.errIndex := rfl
@[simp] theorem State.setPmem_seq (v : Memory) : (s.setPmem v).seq = s.seq := rfl
@[simp] theorem State.setPmem_pmem (v : Memory) : (s.setPmem v).pmem = v := rfl
@[simp] theorem State.setPmem_program (v : Memory) : (s.setPmem v).program = s.program := rfl
@[simp] theorem State.setPmem_answers (v : Memory) : (s.setPmem v).answers = s.answers := rfl
@[simp] theorem State.setPmem_trace (v : Memory) : (s.setPmem v).trace = s.trace := rfl

@[simp] theorem State.setProgram_cfg (v : List Word) : (s.setProgram v).cfg = s.cfg := rfl
@[simp] theorem State.setProgram_lc (v : List Word) : (s.setProgram v).lc = s.lc := rfl
@[simp] theorem State.setProgram_curChannel (v : List Word) : (s.setProgram v).curChannel = s.curChannel := rfl
@[simp] theorem State.setProgram_curDataRate (v : List Word) : (s.setProgram v).curDataRate = s.curDataRate := rfl
@[simp] theorem State.setProgram_status (v : List Word) : (s.setProgram v).status = s.status := rfl
@[simp] theorem State.setProgram_errIndex (v : List Word) : (s.setProgram v).errIndex = s.errIndex := rfl
@[simp] theorem State.setProgram_seq (v : List Word) : (s.setProgram v).seq = s.seq := rfl
@[simp] theorem State.setProgram_pmem (v : List Word) : (s.setProgram v).pmem = s.pmem := rfl
@[simp] theorem State.setProgram_program (v : List Word) : (s.setProgram v).program = v := rfl
@[simp] theorem State.setProgram_answers (v : List Word) : (s.setProgram v).answers = s.answers := rfl
@[simp] theorem State.setProgram_trace (v : List Word) : (s.setProgram v).trace = s.trace := rfl

@[simp] theorem State.finish_cfg (st : Status) (i : BitVec 16) : (s.finish st i).cfg = s.cfg := rfl
@[simp] theorem State.finish_lc (st : Status) (i : BitVec 16) : (s.finish st i).lc = s.lc := rfl
@[simp] theorem State.finish_curChannel (st : Status) (i : BitVec 16) : (s.finish st i).curChannel = s.curChannel := rfl
@[simp] theorem State.finish_curDataRate (st : Status) (i : BitVec 16) : (s.finish st i).curDataRate = s.curDataRate := rfl
@[simp] theorem State.finish_status (st : Status) (i : BitVec 16) : (s.finish st i).status = st := rfl
@[simp] theorem State.finish_errIndex (st : Status) (i : BitVec 16) : (s.finish st i).errIndex = i := rfl
@[simp] theorem State.finish_seq (st : Status) (i : BitVec 16) : (s.finish st i).seq = .idle := rfl
@[simp] theorem State.finish_pmem (st : Status) (i : BitVec 16) : (s.finish st i).pmem = s.pmem := rfl
@[simp] theorem State.finish_program (st : Status) (i : BitVec 16) : (s.finish st i).program = s.program := rfl
@[simp] theorem State.finish_answers (st : Status) (i : BitVec 16) : (s.finish st i).answers = s.answers := rfl
@[simp] theorem State.finish_trace (st : Status) (i : BitVec 16) : (s.finish st i).trace = s.trace := rfl

@[simp] theorem State.complete_cfg : (s.complete).cfg = s.cfg := rfl
@[simp] theorem State.complete_lc : (s.complete).lc = s.lc := rfl
@[simp] theorem State.complete_curChannel : (s.complete).curChannel = s.curChannel := rfl
@[simp] theorem State.complete_curDataRate : (s.complete).curDataRate = s.curDataRate := rfl
@[simp] theorem State.complete_status : (s.complete).status = .ok := rfl
@[simp] theorem State.complete_errIndex : (s.complete).errIndex = 0#16 := rfl
@[simp] theorem State.complete_seq : (s.complete).seq = .idle := rfl
@[simp] theorem State.complete_pmem : (s.complete).pmem = s.pmem := rfl
@[simp] theorem State.complete_program : (s.complete).program = s.program := rfl
@[simp] theorem State.complete_answers : (s.complete).answers = s.answers := rfl
@[simp] theorem State.complete_trace : (s.complete).trace = s.trace := rfl

@[simp] theorem State.raise_cfg (st : Status) : (s.raise st).cfg = s.cfg := rfl
@[simp] theorem State.raise_lc (st : Status) : (s.raise st).lc = s.lc := rfl
@[simp] theorem State.raise_curChannel (st : Status) : (s.raise st).curChannel = s.curChannel := rfl
@[simp] theorem State.raise_curDataRate (st : Status) : (s.raise st).curDataRate = s.curDataRate := rfl
@[simp] theorem State.raise_status (st : Status) : (s.raise st).status = st := rfl
@[simp] theorem State.raise_errIndex (st : Status) : (s.raise st).errIndex = 0#16 := rfl
@[simp] theorem State.raise_seq (st : Status) : (s.raise st).seq = .idle := rfl
@[simp] theorem State.raise_pmem (st : Status) : (s.raise st).pmem = s.pmem := rfl
@[simp] theorem State.raise_program (st : Status) : (s.raise st).program = s.program := rfl
@[simp] theorem State.raise_answers (st : Status) : (s.raise st).answers = s.answers := rfl
@[simp] theorem State.raise_trace (st : Status) : (s.raise st).trace = s.trace := rfl

@[simp] theorem State.raiseAt_cfg (st : Status) (i : BitVec 16) : (s.raiseAt st i).cfg = s.cfg := rfl
@[simp] theorem State.raiseAt_lc (st : Status) (i : BitVec 16) : (s.raiseAt st i).lc = s.lc := rfl
@[simp] theorem State.raiseAt_curChannel (st : Status) (i : BitVec 16) : (s.raiseAt st i).curChannel = s.curChannel := rfl
@[simp] theorem State.raiseAt_curDataRate (st : Status) (i : BitVec 16) : (s.raiseAt st i).curDataRate = s.curDataRate := rfl
@[simp] theorem State.raiseAt_status (st : Status) (i : BitVec 16) : (s.raiseAt st i).status = st := rfl
@[simp] theorem State.raiseAt_errIndex (st : Status) (i : BitVec 16) : (s.raiseAt st i).errIndex = i := rfl
@[simp] theorem State.raiseAt_seq (st : Status) (i : BitVec 16) : (s.raiseAt st i).seq = .idle := rfl
@[simp] theorem State.raiseAt_pmem (st : Status) (i : BitVec 16) : (s.raiseAt st i).pmem = s.pmem := rfl
@[simp] theorem State.raiseAt_program (st : Status) (i : BitVec 16) : (s.raiseAt st i).program = s.program := rfl
@[simp] theorem State.raiseAt_answers (st : Status) (i : BitVec 16) : (s.raiseAt st i).answers = s.answers := rfl
@[simp] theorem State.raiseAt_trace (st : Status) (i : BitVec 16) : (s.raiseAt st i).trace = s.trace := rfl

@[simp] theorem State.raiseFatal_cfg (st : Status) : (s.raiseFatal st).cfg = s.cfg := rfl
@[simp] theorem State.raiseFatal_lc (st : Status) : (s.raiseFatal st).lc = .halted := rfl
@[simp] theorem State.raiseFatal_curChannel (st : Status) : (s.raiseFatal st).curChannel = s.curChannel := rfl
@[simp] theorem State.raiseFatal_curDataRate (st : Status) : (s.raiseFatal st).curDataRate = s.curDataRate := rfl
@[simp] theorem State.raiseFatal_status (st : Status) : (s.raiseFatal st).status = st := rfl
@[simp] theorem State.raiseFatal_errIndex (st : Status) : (s.raiseFatal st).errIndex = 0#16 := rfl
@[simp] theorem State.raiseFatal_seq (st : Status) : (s.raiseFatal st).seq = .idle := rfl
@[simp] theorem State.raiseFatal_pmem (st : Status) : (s.raiseFatal st).pmem = s.pmem := rfl
@[simp] theorem State.raiseFatal_program (st : Status) : (s.raiseFatal st).program = s.program := rfl
@[simp] theorem State.raiseFatal_answers (st : Status) : (s.raiseFatal st).answers = s.answers := rfl
@[simp] theorem State.raiseFatal_trace (st : Status) : (s.raiseFatal st).trace = s.trace := rfl

@[simp] theorem State.transact_cfg (tx : Transaction) : (s.transact tx).cfg = s.cfg := rfl
@[simp] theorem State.transact_lc (tx : Transaction) : (s.transact tx).lc = s.lc := rfl
@[simp] theorem State.transact_curChannel (tx : Transaction) : (s.transact tx).curChannel = s.curChannel := rfl
@[simp] theorem State.transact_curDataRate (tx : Transaction) : (s.transact tx).curDataRate = s.curDataRate := rfl
@[simp] theorem State.transact_status (tx : Transaction) : (s.transact tx).status = s.status := rfl
@[simp] theorem State.transact_errIndex (tx : Transaction) : (s.transact tx).errIndex = s.errIndex := rfl
@[simp] theorem State.transact_seq (tx : Transaction) : (s.transact tx).seq = s.seq := rfl
@[simp] theorem State.transact_pmem (tx : Transaction) : (s.transact tx).pmem = s.pmem := rfl
@[simp] theorem State.transact_program (tx : Transaction) : (s.transact tx).program = s.program := rfl
@[simp] theorem State.transact_answers (tx : Transaction) : (s.transact tx).answers = s.answers.tail := rfl
@[simp] theorem State.transact_trace (tx : Transaction) : (s.transact tx).trace = s.trace ++ [⟨tx, s.answerTo tx⟩] := rfl

end Sys2Proof.Machine
end

