-- ==== Sys2Proof/Laws/Transport.lean ====
section
/-!
SUPPORT. What the transport can answer, and what the end of an operation and the guard can do.
-/

namespace Sys2Proof.Machine

@[simp] theorem responseBytes_length (n k : Nat) (script : List Byte) : (responseBytes n k script).length = k := by
  simp [responseBytes]

@[simp] theorem u16Bytes_length (v : BitVec 16) : (u16Bytes v).length = 2 := rfl

@[simp] theorem requestBytes_setProperty (group offset count : Byte) (bytes : List Byte) :
    (Transaction.setProperty group offset count bytes).requestBytes = group :: offset :: count :: bytes := rfl

@[simp] theorem requestBytes_writeFifo (bytes : List Byte) : (Transaction.writeFifo bytes).requestBytes = bytes := rfl

@[simp] theorem requestBytes_startTx (channel condition : Byte) (lengthOrMode : BitVec 16) :
    (Transaction.startTx channel condition lengthOrMode).requestBytes = channel :: condition :: u16Bytes lengthOrMode := rfl

/-- A successful answer has the length of its kind, scripted or drawn (20_memory.md rule R53). -/
theorem respond_length {t : Transaction} {n : Nat} {script : Option Response} {bytes : List Byte}
    (h : respond t n script = .ok bytes) : bytes.length = t.responseLength := by
  unfold respond at h
  split at h
  · cases h
  · cases h; simp
  · split at h
    · cases h; simp
    · cases h

/-- All that an answer can be (20_memory.md rules R54, R57). -/
theorem answerTo_cases (s : State) (t : Transaction) :
    s.answerTo t = .fail ∨ ∃ bytes, s.answerTo t = .ok bytes ∧ bytes.length = t.responseLength := by
  cases h : s.answerTo t with
  | fail => exact .inl rfl
  | ok bytes => exact .inr ⟨bytes, rfl, respond_length h⟩

/-- A scripted failure is answered as a failure. -/
theorem answerTo_scripted_fail {s : State} {rest : List Response} (h : s.answers = .fail :: rest) (t : Transaction) :
    s.answerTo t = .fail := by
  simp [State.answerTo, h, respond]

/-- A scripted success is answered as a success, with as many bytes as the kind has. -/
theorem answerTo_scripted_ok {s : State} {bytes : List Byte} {rest : List Response} (h : s.answers = .ok bytes :: rest)
    (t : Transaction) : s.answerTo t = .ok (responseBytes s.trace.length t.responseLength bytes) := by
  simp [State.answerTo, h, respond]

/-- A script that gives exactly the bytes of the kind is answered as it stands. -/
theorem responseBytes_exact (n : Nat) (script : List Byte) : responseBytes n script.length script = script := by
  apply List.ext_getElem
  · simp
  · intro i h1 h2
    simp [responseBytes, List.getD_eq_getElem?_getD, List.getElem?_eq_getElem h2]

/-- All that the guard can answer (40_lifecycle.md rule R102). -/
theorem lifecycleGuard_cases (g : GuardClass) (lc : Lc) :
    lifecycleGuard g lc = none ∨ lifecycleGuard g lc = some .notReady ∨ lifecycleGuard g lc = some .halted := by
  cases g <;> cases lc <;> simp [lifecycleGuard]

@[simp] theorem lifecycleGuard_reset (lc : Lc) : lifecycleGuard .reset lc = none := by
  cases lc <;> rfl

@[simp] theorem lifecycleGuard_needsReady_ready : lifecycleGuard .needsReady .ready = none := rfl

theorem lifecycleGuard_needsReady_iff {lc : Lc} : lifecycleGuard .needsReady lc = none ↔ lc = .ready := by
  cases lc <;> simp [lifecycleGuard]

theorem lifecycleGuard_configure_iff {lc : Lc} :
    lifecycleGuard .configure lc = none ↔ lc = .resetDone ∨ lc = .configuring ∨ lc = .ready := by
  cases lc <;> simp [lifecycleGuard]

theorem lifecycleGuard_verify_iff {lc : Lc} : lifecycleGuard .verify lc = none ↔ lc = .configuring ∨ lc = .ready := by
  cases lc <;> simp [lifecycleGuard]

end Sys2Proof.Machine
end

