-- ==== Sys2Proof/Laws/Answers.lean ====
section
/-!
SUPPORT. The answers a state has in store: what is drawn for the next transaction, and what is left after it.
-/

namespace Sys2Proof.Machine

theorem State.answerTo_eq_answerAt (s : State) (t : Transaction) : s.answerTo t = s.answerAt 0 t := by
  simp [State.answerTo, State.answerAt, List.head?_eq_getElem?]

/-- After a transaction, what was the answer one further on is the next. -/
@[simp] theorem State.answerAt_transact (s : State) (tx u : Transaction) (n : Nat) :
    (s.transact tx).answerAt n u = s.answerAt (n + 1) u := by
  simp [State.answerAt, Nat.add_comm, Nat.add_left_comm]

@[simp] theorem State.answerAt_setSeq (s : State) (v : Sequencer) (n : Nat) (u : Transaction) :
    (s.setSeq v).answerAt n u = s.answerAt n u := rfl

@[simp] theorem State.answerTo_setSeq (s : State) (v : Sequencer) (u : Transaction) :
    (s.setSeq v).answerTo u = s.answerTo u := rfl

theorem State.answersAs_nil (s : State) : s.answersAs [] := fun _ _ h => by simp at h

/-- The answers of a stretch of the trace are its first event's and then, after that transaction, the rest's. -/
theorem State.answersAs_cons (s : State) (e : Event) (rest : List Event) :
    s.answersAs (e :: rest) ↔ s.answerTo e.tx = e.answer ∧ (s.transact e.tx).answersAs rest := by
  rw [State.answerTo_eq_answerAt]
  constructor
  · intro h
    refine ⟨h 0 e rfl, fun n d hd => ?_⟩
    rw [State.answerAt_transact]
    exact h (n + 1) d hd
  · rintro ⟨h0, h⟩ n d hd
    cases n with
    | zero =>
      obtain rfl : e = d := by simpa using hd
      exact h0
    | succ n =>
      rw [← State.answerAt_transact]
      exact h n d hd

@[simp] theorem waitsEvents_nil (p : Params) (payload : List Byte) (j : Nat) : waitsEvents p payload j [] = [] := rfl

theorem waitsEvents_cons (p : Params) (payload : List Byte) (j : Nat) (w : Wait) (rest : List Wait) :
    waitsEvents p payload j (w :: rest) =
      w.short.map pollEvent ++
        pollEvent w.enough :: writeEvent (laterChunk p payload j) :: waitsEvents p payload (j + 1) rest := rfl

end Sys2Proof.Machine
end

