-- ==== Sys2Proof/Laws/Config.lean ====
section
/-!
SUPPORT. The constraints of 00_scope.md rule R8 that every configuration meets, one lemma each.
-/

namespace Sys2Proof

theorem Config.chunkSize_pos (c : Config) : 1 ≤ c.params.chunkSize := by
  have h := c.wf
  simp only [Params.wf, Bool.and_eq_true, decide_eq_true_eq] at h
  exact h.1.1.1.1.2

theorem Config.pollLimit_pos (c : Config) : 1 ≤ c.params.pollLimit := by
  have h := c.wf
  simp only [Params.wf, Bool.and_eq_true, decide_eq_true_eq] at h
  exact h.1.2

theorem Config.fifoCapacity_pos (c : Config) : 1 ≤ c.params.fifoCapacity := by
  have h := c.wf
  simp only [Params.wf, Bool.and_eq_true, decide_eq_true_eq] at h
  exact h.1.1.1.1.1.1.2

theorem Config.chunkSize_le (c : Config) : c.params.chunkSize ≤ c.params.fifoCapacity := by
  have h := c.wf
  simp only [Params.wf, Bool.and_eq_true, decide_eq_true_eq] at h
  exact h.1.1.1.2

theorem Config.xtalFreqHz_pos (c : Config) : 0 < c.params.xtalFreqHz := by
  have h := c.wf
  simp only [Params.wf, Bool.and_eq_true, decide_eq_true_eq] at h
  exact h.1.1.1.1.1.1.1.1.1.1.2

theorem Config.refDivisorHz_pos (c : Config) : 0 < c.params.refDivisorHz := by
  have h := c.wf
  simp only [Params.wf, Bool.and_eq_true, decide_eq_true_eq] at h
  exact h.1.1.1.1.1.1.1.1.1.1.1.2

theorem Config.cfgTable_length (c : Config) : c.params.cfgTable.length ≤ 65535 := by
  have h := c.wf
  simp only [Params.wf, Bool.and_eq_true, decide_eq_true_eq] at h
  exact h.1.1.1.1.1.1.1.1.2

theorem Config.entry_wf (c : Config) {e : CfgEntry} (he : e ∈ c.params.cfgTable) : e.wf = true := by
  have h := c.wf
  simp only [Params.wf, Bool.and_eq_true, decide_eq_true_eq] at h
  exact List.all_eq_true.mp h.1.1.1.1.1.1.1.2 e he

theorem Config.defaultChannel_le (c : Config) : c.params.defaultChannel ≤ c.params.channelLimitUpper := by
  have h := c.wf
  simp only [Params.wf, Bool.and_eq_true, decide_eq_true_eq] at h
  exact h.2

end Sys2Proof
end

