-- ==== Sys2Proof/Laws/PerInstr.lean ====
section
/-!
SUPPORT. Facts about each operation as syntax, one lemma per constructor of `Instr`: the family `EncodedOpcode` says that the
top byte of an operation's word is its opcode (30_encoding.md rules R71, R74).
-/

namespace Sys2Proof.Laws

/-- The top byte of an opcode put above 56 operand bits is the opcode. -/
theorem fieldOpc_append (b : Byte) (v : BitVec 56) : fieldOpc (b ++ v) = b := by
  unfold fieldOpc
  apply BitVec.eq_of_toNat_eq
  have hv := v.isLt
  have hb := b.isLt
  simp only [BitVec.extractLsb'_toNat, BitVec.toNat_append]
  rw [← Nat.shiftLeft_add_eq_or_of_lt hv]
  simp only [Nat.shiftLeft_eq, Nat.shiftRight_eq_div_pow]
  omega

end Sys2Proof.Laws

namespace Sys2Proof.Laws.EncodedOpcode

def Statement (i : Instr) : Prop := fieldOpc (encode i) = i.opcode.byte

theorem reset : Statement .reset := fieldOpc_append _ _
theorem configure : Statement .configure := fieldOpc_append _ _
theorem verify : Statement .verify := fieldOpc_append _ _
theorem setFrequency (channel : BitVec 8) : Statement (.setFrequency channel) := fieldOpc_append _ _
theorem applyFrequency (freqHz : BitVec 32) (adj : BitVec 24) : Statement (.applyFrequency freqHz adj) := fieldOpc_append _ _
theorem setDataRate (bps : BitVec 16) : Statement (.setDataRate bps) := fieldOpc_append _ _
theorem setModulation (mode : BitVec 8) : Statement (.setModulation mode) := fieldOpc_append _ _
theorem setPower (level : BitVec 8) : Statement (.setPower level) := fieldOpc_append _ _
theorem adjustCrystal (adj : BitVec 8) : Statement (.adjustCrystal adj) := fieldOpc_append _ _
theorem transmit (paddr : BitVec 24) (len framecount : BitVec 16) : Statement (.transmit paddr len framecount) :=
  fieldOpc_append _ _

end Sys2Proof.Laws.EncodedOpcode
end

