-- ==== Sys2Proof/Laws/Encoding.lean ====
section
/-!
SUPPORT. The encoder as arithmetic: the number an operation's word is, and what an opcode byte selects.
-/

namespace Sys2Proof.Laws

theorem toNat_append {n m : Nat} (a : BitVec n) (b : BitVec m) : (a ++ b).toNat = a.toNat * 2 ^ m + b.toNat := by
  rw [BitVec.toNat_append, ← Nat.shiftLeft_add_eq_or_of_lt b.isLt, Nat.shiftLeft_eq]

theorem toNat_zero_append {n m : Nat} (b : BitVec m) : ((0#n) ++ b).toNat = b.toNat := by
  rw [toNat_append]
  simp

/-- The operand bits of an operation as a number, field by field (30_encoding.md rule R72). -/
def operandNumber : Instr → Nat
  | .reset => 0
  | .configure => 0
  | .verify => 0
  | .setFrequency channel => channel.toNat
  | .applyFrequency freqHz adj => adj.toNat * 2 ^ 32 + freqHz.toNat
  | .setDataRate bps => bps.toNat
  | .setModulation mode => mode.toNat
  | .setPower level => level.toNat
  | .adjustCrystal adj => adj.toNat
  | .transmit paddr len framecount => (paddr.toNat * 2 ^ 16 + framecount.toNat) * 2 ^ 16 + len.toNat

theorem operandBits_toNat (i : Instr) : i.operandBits.toNat = operandNumber i := by
  cases i with
  | reset => rfl
  | configure => rfl
  | verify => rfl
  | setFrequency channel => exact toNat_zero_append (n := 48) channel
  | applyFrequency freqHz adj => exact toNat_append adj freqHz
  | setDataRate bps => exact toNat_zero_append (n := 40) bps
  | setModulation mode => exact toNat_zero_append (n := 48) mode
  | setPower level => exact toNat_zero_append (n := 48) level
  | adjustCrystal adj => exact toNat_zero_append (n := 48) adj
  | transmit paddr len framecount =>
    refine (toNat_append (paddr ++ framecount) len).trans ?_
    rw [toNat_append]
    rfl

/-- The word of an operation as a number: the opcode above the operand bits (rule R81). -/
theorem encode_toNat (i : Instr) : (encode i).toNat = i.opcode.byte.toNat * 2 ^ 56 + operandNumber i := by
  rw [← operandBits_toNat]
  exact toNat_append i.opcode.byte i.operandBits

theorem ofByte_byte (o : Opcode) : Opcode.ofByte o.byte = some o := by
  cases o <;> decide

/-- A byte selects an opcode exactly when it is that opcode's byte (rule R74). -/
theorem ofByte_eq_some {b : Byte} {o : Opcode} (h : Opcode.ofByte b = some o) : b = o.byte := by
  unfold Opcode.ofByte at h
  repeat' split at h
  all_goals first
    | (cases h; assumption)
    | cases h

end Sys2Proof.Laws
end

