-- ==== Sys2Proof/Laws/Memory.lean ====
section
/-!
SUPPORT. The laws of the payload memory: a read after a write, the canonical form kept, and what `MemRead` answers.
-/

namespace Sys2Proof.Machine

theorem Memory.wfFrom_mono {lo lo' : Nat} {m : Memory} (h : lo' ≤ lo) (hw : m.wfFrom lo = true) : m.wfFrom lo' = true := by
  cases m with
  | nil => rfl
  | cons c rest =>
    simp only [Memory.wfFrom, Bool.and_eq_true, decide_eq_true_eq] at hw ⊢
    exact ⟨⟨⟨by omega, hw.1.1.2⟩, hw.1.2⟩, hw.2⟩

/-- Below the first listed address every byte is unlisted. -/
theorem Memory.read_below {lo a : Nat} {m : Memory} (hw : m.wfFrom lo = true) (h : a < lo) : m.read a = Memory.unlisted := by
  induction m generalizing lo with
  | nil => rfl
  | cons c rest ih =>
    simp only [Memory.wfFrom, Bool.and_eq_true, decide_eq_true_eq] at hw
    have hne : a ≠ c.1 := by omega
    simp only [Memory.read, hne, if_false]
    exact ih hw.2 (by omega)

theorem Memory.write_wfFrom {lo a : Nat} {v : Byte} {m : Memory} (hw : m.wfFrom lo = true) (hlo : lo ≤ a)
    (ha : a < pmemSize) : (m.write a v).wfFrom lo = true := by
  induction m generalizing lo with
  | nil =>
    simp only [Memory.write]
    split
    · rfl
    · simp_all [Memory.wfFrom]
  | cons c rest ih =>
    obtain ⟨b, x⟩ := c
    simp only [Memory.wfFrom, Bool.and_eq_true, decide_eq_true_eq] at hw
    obtain ⟨⟨⟨hb, hbs⟩, hx⟩, hrest⟩ := hw
    simp only [Memory.write]
    split
    · rename_i hab
      split
      · simp only [Memory.wfFrom, Bool.and_eq_true, decide_eq_true_eq]
        exact ⟨⟨⟨hb, hbs⟩, hx⟩, hrest⟩
      · rename_i hv
        simp only [Memory.wfFrom, Bool.and_eq_true, decide_eq_true_eq]
        exact ⟨⟨⟨hlo, ha⟩, hv⟩, ⟨⟨by omega, hbs⟩, hx⟩, hrest⟩
    · split
      · rename_i hab
        subst hab
        split
        · exact Memory.wfFrom_mono (by omega) hrest
        · rename_i hv
          simp only [Memory.wfFrom, Bool.and_eq_true, decide_eq_true_eq]
          exact ⟨⟨⟨hb, hbs⟩, hv⟩, hrest⟩
      · simp only [Memory.wfFrom, Bool.and_eq_true, decide_eq_true_eq]
        exact ⟨⟨⟨hb, hbs⟩, hx⟩, ih hrest (by omega)⟩

/-- The one memory operation that changes a memory keeps its canonical form. -/
theorem Memory.write_wf {a : Nat} {v : Byte} {m : Memory} (hw : m.wf = true) (ha : a < pmemSize) :
    (m.write a v).wf = true :=
  Memory.write_wfFrom hw (Nat.zero_le a) ha

theorem Memory.read_write_from {lo a : Nat} {v : Byte} {m : Memory} (hw : m.wfFrom lo = true) (x : Nat) :
    (m.write a v).read x = if x = a then v else m.read x := by
  induction m generalizing lo with
  | nil =>
    by_cases hv : v = Memory.unlisted <;> by_cases hx : x = a <;> simp [Memory.write, Memory.read, hv, hx]
  | cons c rest ih =>
    obtain ⟨b, y⟩ := c
    simp only [Memory.wfFrom, Bool.and_eq_true, decide_eq_true_eq] at hw
    obtain ⟨⟨⟨hb, hbs⟩, hy⟩, hrest⟩ := hw
    simp only [Memory.write]
    split
    · rename_i hab
      by_cases hv : v = Memory.unlisted
      · simp only [hv, if_true]
        by_cases hx : x = a
        · subst hx
          have hne : x ≠ b := by omega
          simp only [Memory.read, hne, if_false, if_true]
          exact Memory.read_below hrest (by omega)
        · simp only [hx, if_false]
      · simp only [hv, if_false, Memory.read]
    · split
      · rename_i hab
        subst hab
        by_cases hv : v = Memory.unlisted
        · by_cases hx : x = a
          · subst hx
            simp only [hv, if_true]
            exact Memory.read_below hrest (by omega)
          · simp only [hv, if_true, hx, if_false, Memory.read]
        · by_cases hx : x = a <;> simp only [hv, hx, if_true, if_false, Memory.read]
      · rename_i hba hne
        by_cases hx : x = b
        · subst hx
          have hxa : x ≠ a := fun h => hne h.symm
          simp only [Memory.read, if_true, hxa, if_false]
        · simp only [Memory.read, hx, if_false]
          exact ih hrest

/-- A read after a write: the value written at its address, the byte before everywhere else. -/
theorem Memory.read_write {a : Nat} {v : Byte} {m : Memory} (hw : m.wf = true) (x : Nat) :
    (m.write a v).read x = if x = a then v else m.read x :=
  Memory.read_write_from hw x

@[simp] theorem Memory.bytes_length (m : Memory) (addr n : Nat) : (m.bytes addr n).length = n := by
  simp [Memory.bytes]

/-- Two stretches of memory side by side are the stretch over both. -/
theorem Memory.bytes_append (m : Memory) (addr n k : Nat) :
    m.bytes addr n ++ m.bytes (addr + n) k = m.bytes addr (n + k) := by
  simp [Memory.bytes, List.range_add, List.map_append, List.map_map, Function.comp_def, Nat.add_assoc]

/-- All that `MemRead` can do (00_scope.md rule R12). -/
theorem memRead_eq (m : Memory) (addr n : Nat) :
    memRead m addr n = if addr + n ≤ pmemSize then some (m.bytes addr n) else none := rfl

theorem memRead_inside {m : Memory} {addr n : Nat} (h : addr + n ≤ pmemSize) : memRead m addr n = some (m.bytes addr n) :=
  if_pos h

theorem memRead_some {m : Memory} {addr n : Nat} {bytes : List Byte} (h : memRead m addr n = some bytes) :
    addr + n ≤ pmemSize ∧ bytes = m.bytes addr n := by
  simp only [memRead] at h
  split at h
  · rename_i hle
    exact ⟨hle, (Option.some.inj h).symm⟩
  · cases h

end Sys2Proof.Machine
end

