-- ==== Sys2Proof/Laws/Sequencer.lean ====
section
/-!
SUPPORT. What one transaction of a running operation can do, position by position; that it leaves the configuration, the
channel, the payload memory and the program alone; that it brings the operation nearer its end; and the induction over a
run to the end.
-/

namespace Sys2Proof.Machine

/-! ### Each position's transaction, said once -/

theorem advanceReset_cases (s : State) :
    (s.answerTo .reset = .fail ∧ advanceReset s = (s.transact .reset).raiseFatal .transportError) ∨
    (∃ bytes, s.answerTo .reset = .ok bytes ∧ advanceReset s = ((s.transact .reset).setLc .resetDone).complete) := by
  unfold advanceReset
  cases h : s.answerTo .reset with
  | fail => exact .inl ⟨rfl, rfl⟩
  | ok bytes => exact .inr ⟨bytes, rfl, rfl⟩

theorem loadFrom_cases (i : Nat) (s : State) :
    (i < s.cfg.params.cfgTable.length ∧ loadFrom i s = s.setSeq (.configure i)) ∨
    (s.cfg.params.cfgTable.length ≤ i ∧ loadFrom i s = (s.setLc .configuring).complete) := by
  by_cases h : i < s.cfg.params.cfgTable.length
  · exact .inl ⟨h, by simp [loadFrom, h]⟩
  · exact .inr ⟨by omega, by simp [loadFrom, h]⟩

theorem advanceConfigure_cases (i : Nat) (s : State) :
    (s.cfg.params.cfgTable.length ≤ i ∧ advanceConfigure i s = (s.setLc .configuring).complete) ∨
    (∃ e, s.cfg.params.cfgTable[i]? = some e ∧
      ((s.answerTo (entryWrite e) = .fail ∧
          advanceConfigure i s =
            ((s.transact (entryWrite e)).setLc .halted).raiseAt .transportError (BitVec.ofNat 16 i)) ∨
       (∃ bytes, s.answerTo (entryWrite e) = .ok bytes ∧
          advanceConfigure i s = loadFrom (i + 1) (s.transact (entryWrite e))))) := by
  unfold advanceConfigure
  cases he : s.cfg.params.cfgTable[i]? with
  | none =>
    have hlen : s.cfg.params.cfgTable.length ≤ i := List.getElem?_eq_none_iff.mp he
    exact .inl ⟨hlen, by simp [loadFrom, Nat.not_lt.mpr hlen]⟩
  | some e =>
    refine .inr ⟨e, rfl, ?_⟩
    cases h : s.answerTo (entryWrite e) with
    | fail => exact .inl ⟨rfl, by simp [h]⟩
    | ok bytes => exact .inr ⟨bytes, rfl, by simp [h]⟩

theorem advanceVerify_cases (s : State) :
    (s.answerTo .readPartInfo = .fail ∧ advanceVerify s = (s.transact .readPartInfo).raiseFatal .transportError) ∨
    (∃ bytes, s.answerTo .readPartInfo = .ok bytes ∧
      ((partOf bytes = s.cfg.params.expectedPartId ∧
          advanceVerify s = ((s.transact .readPartInfo).setLc .ready).complete) ∨
       (partOf bytes ≠ s.cfg.params.expectedPartId ∧
          advanceVerify s = (s.transact .readPartInfo).raiseFatal .hardwareMismatch))) := by
  unfold advanceVerify
  cases h : s.answerTo .readPartInfo with
  | fail => exact .inl ⟨rfl, rfl⟩
  | ok bytes =>
    refine .inr ⟨bytes, rfl, ?_⟩
    by_cases hp : partOf bytes = s.cfg.params.expectedPartId
    · exact .inl ⟨hp, by simp [hp]⟩
    · exact .inr ⟨hp, by simp [hp]⟩

theorem advanceProperty_cases (group offset : Byte) (bytes : List Byte) (s : State) :
    (s.answerTo (propertyWrite group offset bytes) = .fail ∧
      advanceProperty group offset bytes s = (s.transact (propertyWrite group offset bytes)).raise .transportError) ∨
    (∃ resp, s.answerTo (propertyWrite group offset bytes) = .ok resp ∧
      advanceProperty group offset bytes s = (s.transact (propertyWrite group offset bytes)).complete) := by
  unfold advanceProperty
  cases h : s.answerTo (propertyWrite group offset bytes) with
  | fail => exact .inl ⟨rfl, rfl⟩
  | ok resp => exact .inr ⟨resp, rfl, rfl⟩

theorem advanceDataRateRead_cases (bps : BitVec 16) (s : State) :
    (s.answerTo (ncoRead s.cfg.params) = .fail ∧
      advanceDataRateRead bps s = (s.transact (ncoRead s.cfg.params)).raise .transportError) ∨
    (∃ bytes, s.answerTo (ncoRead s.cfg.params) = .ok bytes ∧
      ((dataRateFits (dataRateValue s.cfg.params bps (readBackWord bytes)) = true ∧
          advanceDataRateRead bps s =
            (s.transact (ncoRead s.cfg.params)).setSeq (.dataRateWrite bps (readBackWord bytes))) ∨
       (dataRateFits (dataRateValue s.cfg.params bps (readBackWord bytes)) = false ∧
          advanceDataRateRead bps s = (s.transact (ncoRead s.cfg.params)).raise .dataRateOutOfRange))) := by
  unfold advanceDataRateRead
  cases h : s.answerTo (ncoRead s.cfg.params) with
  | fail => exact .inl ⟨rfl, rfl⟩
  | ok bytes =>
    refine .inr ⟨bytes, rfl, ?_⟩
    cases hf : dataRateFits (dataRateValue s.cfg.params bps (readBackWord bytes)) with
    | true => exact .inl ⟨rfl, by simp [hf]⟩
    | false => exact .inr ⟨rfl, by simp [hf]⟩

theorem advanceDataRateWrite_cases (bps : BitVec 16) (r : BitVec 32) (s : State) :
    (s.answerTo (dataRateWrite s.cfg.params bps r) = .fail ∧
      advanceDataRateWrite bps r s = (s.transact (dataRateWrite s.cfg.params bps r)).raise .transportError) ∨
    (∃ resp, s.answerTo (dataRateWrite s.cfg.params bps r) = .ok resp ∧
      advanceDataRateWrite bps r s = ((s.transact (dataRateWrite s.cfg.params bps r)).setDataRate bps).complete) := by
  unfold advanceDataRateWrite
  cases h : s.answerTo (dataRateWrite s.cfg.params bps r) with
  | fail => exact .inl ⟨rfl, rfl⟩
  | ok resp => exact .inr ⟨resp, rfl, rfl⟩

theorem transmitLoop_cases (job : TxJob) (sent : Nat) (s : State) :
    (sent < job.len.toNat ∧ transmitLoop job sent s = s.setSeq (.txPoll job sent 0)) ∨
    (job.len.toNat ≤ sent ∧ transmitLoop job sent s = s.setSeq (.txStart job)) := by
  by_cases h : sent < job.len.toNat
  · exact .inl ⟨h, by simp [transmitLoop, h]⟩
  · exact .inr ⟨by omega, by simp [transmitLoop, h]⟩

theorem advanceWrite_cases (job : TxJob) (sent n : Nat) (s : State) :
    (pmemSize < job.paddr.toNat + sent + n ∧
      advanceWrite job sent n s = .fault (.pmemOutOfRange (job.paddr.toNat + sent) n)) ∨
    (job.paddr.toNat + sent + n ≤ pmemSize ∧
      ((s.answerTo (.writeFifo (s.pmem.bytes (job.paddr.toNat + sent) n)) = .fail ∧
          advanceWrite job sent n s =
            .next ((s.transact (.writeFifo (s.pmem.bytes (job.paddr.toNat + sent) n))).raise .transportError)) ∨
       (∃ resp, s.answerTo (.writeFifo (s.pmem.bytes (job.paddr.toNat + sent) n)) = .ok resp ∧
          advanceWrite job sent n s =
            .next (transmitLoop job (sent + n)
              (s.transact (.writeFifo (s.pmem.bytes (job.paddr.toNat + sent) n))))))) := by
  unfold advanceWrite
  by_cases hle : job.paddr.toNat + sent + n ≤ pmemSize
  · refine .inr ⟨hle, ?_⟩
    rw [memRead_inside hle]
    cases h : s.answerTo (.writeFifo (s.pmem.bytes (job.paddr.toNat + sent) n)) with
    | fail => exact .inl ⟨rfl, by simp [h]⟩
    | ok resp => exact .inr ⟨resp, rfl, by simp [h]⟩
  · exact .inl ⟨by omega, by simp [memRead, hle]⟩

theorem advancePoll_cases (job : TxJob) (sent polls : Nat) (s : State) :
    (s.answerTo .readFifoFreeSpace = .fail ∧
      advancePoll job sent polls s = (s.transact .readFifoFreeSpace).raise .transportError) ∨
    (∃ bytes, s.answerTo .readFifoFreeSpace = .ok bytes ∧
      ((s.cfg.params.chunkSize ≤ (freeOf bytes).toNat ∧
          advancePoll job sent polls s = (s.transact .readFifoFreeSpace).setSeq (.txChunk job sent)) ∨
       ((freeOf bytes).toNat < s.cfg.params.chunkSize ∧ s.cfg.params.pollLimit ≤ polls + 1 ∧
          advancePoll job sent polls s = (s.transact .readFifoFreeSpace).raise .fifoTimeout) ∨
       ((freeOf bytes).toNat < s.cfg.params.chunkSize ∧ polls + 1 < s.cfg.params.pollLimit ∧
          advancePoll job sent polls s = (s.transact .readFifoFreeSpace).setSeq (.txPoll job sent (polls + 1))))) := by
  unfold advancePoll
  cases h : s.answerTo .readFifoFreeSpace with
  | fail => exact .inl ⟨rfl, rfl⟩
  | ok bytes =>
    refine .inr ⟨bytes, rfl, ?_⟩
    by_cases hc : s.cfg.params.chunkSize ≤ (freeOf bytes).toNat
    · exact .inl ⟨hc, by simp [hc]⟩
    · by_cases hl : s.cfg.params.pollLimit ≤ polls + 1
      · exact .inr (.inl ⟨by omega, hl, by simp [hc, hl]⟩)
      · exact .inr (.inr ⟨by omega, by omega, by simp [hc, hl]⟩)

theorem advanceStart_cases (job : TxJob) (s : State) :
    (s.answerTo (startTransmit job s) = .fail ∧
      advanceStart job s = (s.transact (startTransmit job s)).raise .transportError) ∨
    (∃ resp, s.answerTo (startTransmit job s) = .ok resp ∧
      advanceStart job s = (s.transact (startTransmit job s)).complete) := by
  unfold advanceStart
  cases h : s.answerTo (startTransmit job s) with
  | fail => exact .inl ⟨rfl, rfl⟩
  | ok resp => exact .inr ⟨resp, rfl, rfl⟩

/-! ### What no transaction changes -/

/-- What every transaction leaves unchanged; the trace only grows, by at most the one transaction. -/
structure Untouched (s t : State) : Prop where
  cfg : t.cfg = s.cfg
  curChannel : t.curChannel = s.curChannel
  pmem : t.pmem = s.pmem
  program : t.program = s.program
  trace : t.trace = s.trace ∨ ∃ tx, t.trace = s.trace ++ [⟨tx, s.answerTo tx⟩]

theorem loadFrom_untouched (i : Nat) {s t : State} (h : Untouched s t) : Untouched s (loadFrom i t) := by
  obtain ⟨_, heq⟩ | ⟨_, heq⟩ := loadFrom_cases i t <;> rw [heq] <;> exact ⟨h.1, h.2, h.3, h.4, h.5⟩

theorem transmitLoop_untouched (job : TxJob) (sent : Nat) {s t : State} (h : Untouched s t) :
    Untouched s (transmitLoop job sent t) := by
  obtain ⟨_, heq⟩ | ⟨_, heq⟩ := transmitLoop_cases job sent t <;> rw [heq] <;> exact ⟨h.1, h.2, h.3, h.4, h.5⟩

theorem transact_untouched (s : State) (tx : Transaction) : Untouched s (s.transact tx) :=
  ⟨rfl, rfl, rfl, rfl, .inr ⟨tx, rfl⟩⟩

theorem advanceWrite_untouched {job : TxJob} {sent n : Nat} {s t : State} (h : advanceWrite job sent n s = .next t) :
    Untouched s t := by
  obtain ⟨_, heq⟩ | ⟨_, ⟨_, heq⟩ | ⟨_, _, heq⟩⟩ := advanceWrite_cases job sent n s
  · rw [heq] at h; cases h
  · rw [heq] at h; cases h; exact ⟨rfl, rfl, rfl, rfl, .inr ⟨_, rfl⟩⟩
  · rw [heq] at h; cases h
    exact transmitLoop_untouched job (sent + n) (transact_untouched s _)

/-- The frame of one transaction. -/
theorem advance_untouched {s t : State} (h : advance s = .next t) : Untouched s t := by
  unfold advance at h
  split at h
  · cases h; exact ⟨rfl, rfl, rfl, rfl, .inl rfl⟩
  · cases h
    obtain ⟨_, heq⟩ | ⟨_, _, heq⟩ := advanceReset_cases s <;> rw [heq] <;> exact ⟨rfl, rfl, rfl, rfl, .inr ⟨_, rfl⟩⟩
  · rename_i i _
    cases h
    obtain ⟨_, heq⟩ | ⟨e, _, ⟨_, heq⟩ | ⟨_, _, heq⟩⟩ := advanceConfigure_cases i s
    · rw [heq]; exact ⟨rfl, rfl, rfl, rfl, .inl rfl⟩
    · rw [heq]; exact ⟨rfl, rfl, rfl, rfl, .inr ⟨_, rfl⟩⟩
    · rw [heq]; exact loadFrom_untouched (i + 1) (transact_untouched s _)
  · cases h
    obtain ⟨_, heq⟩ | ⟨_, _, ⟨_, heq⟩ | ⟨_, heq⟩⟩ := advanceVerify_cases s <;> rw [heq] <;>
      exact ⟨rfl, rfl, rfl, rfl, .inr ⟨_, rfl⟩⟩
  · rename_i g o b _
    cases h
    obtain ⟨_, heq⟩ | ⟨_, _, heq⟩ := advanceProperty_cases g o b s <;> rw [heq] <;>
      exact ⟨rfl, rfl, rfl, rfl, .inr ⟨_, rfl⟩⟩
  · rename_i bps _
    cases h
    obtain ⟨_, heq⟩ | ⟨_, _, ⟨_, heq⟩ | ⟨_, heq⟩⟩ := advanceDataRateRead_cases bps s <;> rw [heq] <;>
      exact ⟨rfl, rfl, rfl, rfl, .inr ⟨_, rfl⟩⟩
  · rename_i bps r _
    cases h
    obtain ⟨_, heq⟩ | ⟨_, _, heq⟩ := advanceDataRateWrite_cases bps r s <;> rw [heq] <;>
      exact ⟨rfl, rfl, rfl, rfl, .inr ⟨_, rfl⟩⟩
  · exact advanceWrite_untouched h
  · rename_i job sent polls _
    cases h
    obtain ⟨_, heq⟩ | ⟨_, _, ⟨_, heq⟩ | ⟨_, _, heq⟩ | ⟨_, _, heq⟩⟩ := advancePoll_cases job sent polls s <;> rw [heq] <;>
      exact ⟨rfl, rfl, rfl, rfl, .inr ⟨_, rfl⟩⟩
  · exact advanceWrite_untouched h
  · rename_i job _
    cases h
    obtain ⟨_, heq⟩ | ⟨_, _, heq⟩ := advanceStart_cases job s <;> rw [heq] <;> exact ⟨rfl, rfl, rfl, rfl, .inr ⟨_, rfl⟩⟩

/-! ### The operation comes nearer its end -/

@[simp] theorem waits_zero (p : Params) (h : 1 ≤ p.chunkSize) : waits p 0 = 0 := by
  unfold waits
  exact Nat.div_eq_of_lt (by omega)

/-- A wait that is still to come is one of the waits. -/
theorem waits_step (p : Params) {rest : Nat} (hc : 1 ≤ p.chunkSize) (h : 0 < rest) :
    waits p rest = waits p (rest - min p.chunkSize rest) + 1 := by
  unfold waits
  have hsplit : rest + p.chunkSize - 1 = (rest - min p.chunkSize rest + p.chunkSize - 1) + min p.chunkSize rest := by omega
  by_cases hle : p.chunkSize ≤ rest
  · rw [Nat.min_eq_left hle] at hsplit ⊢
    rw [hsplit, Nat.add_div_right _ (by omega)]
  · have hmin : min p.chunkSize rest = rest := by omega
    rw [hmin]
    have h1 : (rest - rest + p.chunkSize - 1) / p.chunkSize = 0 := Nat.div_eq_of_lt (by omega)
    have h2 : rest + p.chunkSize - 1 = (rest - 1) + p.chunkSize := by omega
    rw [h1, h2, Nat.add_div_right _ (by omega), Nat.div_eq_of_lt (by omega)]

/-- What the head of the FIFO loop can still take is what the rest of the payload can. -/
theorem remaining_transmitLoop (job : TxJob) (sent : Nat) (s : State) :
    remaining (transmitLoop job sent s) ≤ transmitRest s.cfg.params (job.len.toNat - sent) := by
  have hc := s.cfg.chunkSize_pos
  have hp := s.cfg.pollLimit_pos
  obtain ⟨hlt, heq⟩ | ⟨hge, heq⟩ := transmitLoop_cases job sent s
  · rw [heq]
    simp only [remaining, State.setSeq_seq, State.setSeq_cfg, chunkWriteSize, transmitRest]
    rw [waits_step s.cfg.params hc (by omega : 0 < job.len.toNat - sent)]
    have hsub : job.len.toNat - (sent + min s.cfg.params.chunkSize (job.len.toNat - sent))
        = job.len.toNat - sent - min s.cfg.params.chunkSize (job.len.toNat - sent) := by omega
    rw [hsub, Nat.add_mul]
    omega
  · rw [heq]
    simp only [remaining, State.setSeq_seq, transmitRest]
    omega

theorem remaining_loadFrom (i : Nat) (s : State) : remaining (loadFrom i s) ≤ s.cfg.params.cfgTable.length - i := by
  obtain ⟨hlt, heq⟩ | ⟨_, heq⟩ := loadFrom_cases i s
  · rw [heq]
    simp only [remaining, State.setSeq_seq, State.setSeq_cfg]
    omega
  · rw [heq]
    simp [remaining]

theorem remaining_of_idle {s : State} (h : s.seq = .idle) : remaining s = 0 := by
  simp [remaining, h]

/-- Every transaction of a running operation takes one from what it can still take. -/
theorem advance_remaining {s t : State} (hbusy : s.seq ≠ .idle) (h : advance s = .next t) : remaining t < remaining s := by
  unfold advance at h
  split at h
  · rename_i heq; exact absurd heq hbusy
  · rename_i hs
    cases h
    have hr : remaining s = 1 := by simp [remaining, hs]
    obtain ⟨_, heq⟩ | ⟨_, _, heq⟩ := advanceReset_cases s <;> rw [heq, remaining_of_idle rfl] <;> omega
  · rename_i i hs
    cases h
    have hr : remaining s = (s.cfg.params.cfgTable.length - (i + 1)) + 1 := by simp [remaining, hs]
    obtain ⟨_, heq⟩ | ⟨e, _, ⟨_, heq⟩ | ⟨_, _, heq⟩⟩ := advanceConfigure_cases i s
    · rw [heq, remaining_of_idle rfl]; omega
    · rw [heq, remaining_of_idle rfl]; omega
    · have hle := remaining_loadFrom (i + 1) (s.transact (entryWrite e))
      simp only [State.transact_cfg] at hle
      rw [heq]; omega
  · rename_i hs
    cases h
    have hr : remaining s = 1 := by simp [remaining, hs]
    obtain ⟨_, heq⟩ | ⟨_, _, ⟨_, heq⟩ | ⟨_, heq⟩⟩ := advanceVerify_cases s <;> rw [heq, remaining_of_idle rfl] <;> omega
  · rename_i g o b hs
    cases h
    have hr : remaining s = 1 := by simp [remaining, hs]
    obtain ⟨_, heq⟩ | ⟨_, _, heq⟩ := advanceProperty_cases g o b s <;> rw [heq, remaining_of_idle rfl] <;> omega
  · rename_i bps hs
    cases h
    have hr : remaining s = 2 := by simp [remaining, hs]
    obtain ⟨_, heq⟩ | ⟨_, _, ⟨_, heq⟩ | ⟨_, heq⟩⟩ := advanceDataRateRead_cases bps s
    · rw [heq, remaining_of_idle rfl]; omega
    · rw [heq, hr]; simp [remaining]
    · rw [heq, remaining_of_idle rfl]; omega
  · rename_i bps r hs
    cases h
    have hr : remaining s = 1 := by simp [remaining, hs]
    obtain ⟨_, heq⟩ | ⟨_, _, heq⟩ := advanceDataRateWrite_cases bps r s <;> rw [heq, remaining_of_idle rfl] <;> omega
  · rename_i job hs
    have hr : remaining s = 1 + transmitRest s.cfg.params (job.len.toNat - firstWriteSize s.cfg.params job.len.toNat) := by
      simp [remaining, hs]
    obtain ⟨_, heq⟩ | ⟨_, ⟨_, heq⟩ | ⟨_, _, heq⟩⟩ :=
      advanceWrite_cases job 0 (firstWriteSize s.cfg.params job.len.toNat) s
    · rw [heq] at h; cases h
    · rw [heq] at h; cases h; rw [remaining_of_idle rfl]; omega
    · rw [heq] at h; cases h
      refine Nat.lt_of_le_of_lt (remaining_transmitLoop _ _ _) ?_
      simp only [State.transact_cfg, Nat.zero_add]
      omega
  · rename_i job sent polls hs
    cases h
    have hr : remaining s = ((s.cfg.params.pollLimit - (polls + 1)) + 1) + 1
        + transmitRest s.cfg.params (job.len.toNat - (sent + chunkWriteSize s.cfg.params job.len.toNat sent)) := by
      simp [remaining, hs]
    obtain ⟨_, heq⟩ | ⟨_, _, ⟨_, heq⟩ | ⟨_, _, heq⟩ | ⟨_, _, heq⟩⟩ := advancePoll_cases job sent polls s
    · rw [heq, remaining_of_idle rfl]; omega
    · rw [heq, hr]
      simp only [remaining, State.setSeq_seq, State.setSeq_cfg, State.transact_cfg]
      omega
    · rw [heq, remaining_of_idle rfl]; omega
    · rw [heq, hr]
      simp only [remaining, State.setSeq_seq, State.setSeq_cfg, State.transact_cfg]
      omega
  · rename_i job sent hs
    have hr : remaining s
        = 1 + transmitRest s.cfg.params (job.len.toNat - (sent + chunkWriteSize s.cfg.params job.len.toNat sent)) := by
      simp [remaining, hs]
    obtain ⟨_, heq⟩ | ⟨_, ⟨_, heq⟩ | ⟨_, _, heq⟩⟩ :=
      advanceWrite_cases job sent (chunkWriteSize s.cfg.params job.len.toNat sent) s
    · rw [heq] at h; cases h
    · rw [heq] at h; cases h; rw [remaining_of_idle rfl]; omega
    · rw [heq] at h; cases h
      refine Nat.lt_of_le_of_lt (remaining_transmitLoop _ _ _) ?_
      simp only [State.transact_cfg]
      omega
  · rename_i job hs
    cases h
    have hr : remaining s = 1 := by simp [remaining, hs]
    obtain ⟨_, heq⟩ | ⟨_, _, heq⟩ := advanceStart_cases job s <;> rw [heq, remaining_of_idle rfl] <;> omega

/-! ### Running to the end -/

@[simp] theorem settle_zero (s : State) : settle 0 s = .next s := rfl

theorem settle_of_idle {n : Nat} {s : State} (h : s.seq = .idle) : settle n s = .next s := by
  cases n with
  | zero => rfl
  | succ n => simp [settle, h]

theorem settle_of_busy {n : Nat} {s : State} (h : s.seq ≠ .idle) :
    settle (n + 1) s =
      match advance s with
      | .next t => settle n t
      | .fault r => .fault r
      | .refused r => .refused r := by
  rw [settle]
  split
  · rename_i heq; exact absurd heq h
  · rfl

/-- One transaction, then the rest. -/
theorem settle_advance {n : Nat} {s t : State} (h : s.seq ≠ .idle) (ha : advance s = .next t) :
    settle (n + 1) s = settle n t := by
  rw [settle_of_busy h, ha]

/-- A property that every transaction keeps holds where the operation ends. -/
theorem settle_keeps {P : State → Prop} (hstep : ∀ s t, s.seq ≠ .idle → P s → advance s = .next t → P t) :
    ∀ (n : Nat) (s t : State), P s → settle n s = .next t → P t := by
  intro n
  induction n with
  | zero => intro s t hp h; cases h; exact hp
  | succ n ih =>
    intro s t hp h
    by_cases hi : s.seq = .idle
    · rw [settle_of_idle hi] at h; cases h; exact hp
    · rw [settle_of_busy hi] at h
      cases ha : advance s with
      | next u => rw [ha] at h; exact ih u t (hstep s u hi hp ha) h
      | fault r => rw [ha] at h; cases h
      | refused r => rw [ha] at h; cases h

@[simp] theorem runToEnd_of_idle {s : State} (h : s.seq = .idle) : runToEnd s = .next s := settle_of_idle h

/-- All that an operation can do, if it answers a next state. -/
theorem runOperation_cases {g : GuardClass} {body : State → State} {s t : State}
    (h : runOperation g body s = .next t) :
    s.seq = .idle ∧
      ((∃ st, lifecycleGuard g s.lc = some st ∧ t = s.raise st) ∨
       (lifecycleGuard g s.lc = none ∧ runToEnd (body s) = .next t)) := by
  unfold runOperation at h
  split at h
  · rename_i hi
    refine ⟨hi, ?_⟩
    cases hg : lifecycleGuard g s.lc with
    | none => rw [hg] at h; exact .inr ⟨rfl, h⟩
    | some st => rw [hg] at h; cases h; exact .inl ⟨st, rfl, rfl⟩
  · cases h

theorem runOperation_guarded {g : GuardClass} {body : State → State} {s : State} {st : Status} (hi : s.seq = .idle)
    (hg : lifecycleGuard g s.lc = some st) : runOperation g body s = .next (s.raise st) := by
  simp [runOperation, hi, hg]

theorem runOperation_runs {g : GuardClass} {body : State → State} {s : State} (hi : s.seq = .idle)
    (hg : lifecycleGuard g s.lc = none) : runOperation g body s = runToEnd (body s) := by
  simp [runOperation, hi, hg]

end Sys2Proof.Machine
end

