-- ==== Sys2Proof/Laws/Operations.lean ====
section
/-!
SUPPORT. Every operation is `runOperation` with its guard class and its start: what `exec` answers, said once.
-/

namespace Sys2Proof.Machine

/-- The guard class of an operation (40_lifecycle.md rule R102). -/
def guardClassOf : Instr → GuardClass
  | .reset => .reset
  | .configure => .configure
  | .verify => .verify
  | .setFrequency _ => .needsReady
  | .applyFrequency _ _ => .needsReady
  | .setDataRate _ => .needsReady
  | .setModulation _ => .needsReady
  | .setPower _ => .needsReady
  | .adjustCrystal _ => .needsReady
  | .transmit _ _ _ => .needsReady

/-- What an operation does past its guard and before any transaction. -/
def startOf : Instr → State → State
  | .reset => startReset
  | .configure => startConfigure
  | .verify => startVerify
  | .setFrequency channel => startSetFrequency channel
  | .applyFrequency freqHz adj => startApplyFrequency freqHz adj
  | .setDataRate bps => startSetDataRate bps
  | .setModulation mode => startSetModulation mode
  | .setPower level => startSetPower level
  | .adjustCrystal adj => startAdjustCrystal adj
  | .transmit paddr len framecount => startTransmitOperation paddr len framecount

theorem exec_eq_runOperation (i : Instr) (s : State) : exec i s = runOperation (guardClassOf i) (startOf i) s := by
  cases i <;> rfl

/-- All that an operation can do, if it answers a next state. -/
theorem exec_cases {i : Instr} {s t : State} (h : exec i s = .next t) :
    s.seq = .idle ∧
      ((∃ st, lifecycleGuard (guardClassOf i) s.lc = some st ∧ t = s.raise st) ∨
       (lifecycleGuard (guardClassOf i) s.lc = none ∧ runToEnd (startOf i s) = .next t)) := by
  rw [exec_eq_runOperation] at h
  exact runOperation_cases h

theorem exec_guarded {i : Instr} {s : State} {st : Status} (hi : s.seq = .idle)
    (hg : lifecycleGuard (guardClassOf i) s.lc = some st) : exec i s = .next (s.raise st) := by
  rw [exec_eq_runOperation]
  exact runOperation_guarded hi hg

theorem exec_runs {i : Instr} {s : State} (hi : s.seq = .idle) (hg : lifecycleGuard (guardClassOf i) s.lc = none) :
    exec i s = runToEnd (startOf i s) := by
  rw [exec_eq_runOperation]
  exact runOperation_runs hi hg

theorem startApplyFrequency_cases (freqHz : BitVec 32) (adj : BitVec 24) (s : State) :
    ((inBand s.cfg.params freqHz = false ∨ wordFits (adjustedWord s.cfg.params freqHz adj) = false) ∧
      startApplyFrequency freqHz adj s = s.raise .frequencyOutOfRange) ∨
    (inBand s.cfg.params freqHz = true ∧ wordFits (adjustedWord s.cfg.params freqHz adj) = true ∧
      startApplyFrequency freqHz adj s =
        s.setSeq (.property s.cfg.params.freqGroup s.cfg.params.freqOffset
          (frequencyPayload s.cfg.params freqHz adj))) := by
  unfold startApplyFrequency
  cases hb : inBand s.cfg.params freqHz <;> cases hw : wordFits (adjustedWord s.cfg.params freqHz adj) <;> simp

theorem startSetModulation_cases (mode : BitVec 8) (s : State) :
    (modulationOf mode = none ∧ startSetModulation mode s = s.raise .invalidModulation) ∨
    (∃ m, modulationOf mode = some m ∧
      startSetModulation mode s =
        s.setSeq (.property s.cfg.params.modGroup s.cfg.params.modOffset [modulationByte s.cfg.params m])) := by
  unfold startSetModulation
  cases h : modulationOf mode with
  | none => exact .inl ⟨rfl, rfl⟩
  | some m => exact .inr ⟨m, rfl, rfl⟩

theorem startAdjustCrystal_cases (adj : BitVec 8) (s : State) :
    ((trimValue s.cfg.params adj < 0 ∨ (s.cfg.params.trimMax.toNat : Int) < trimValue s.cfg.params adj) ∧
      startAdjustCrystal adj s = s.raise .trimOutOfRange) ∨
    (0 ≤ trimValue s.cfg.params adj ∧ trimValue s.cfg.params adj ≤ (s.cfg.params.trimMax.toNat : Int) ∧
      startAdjustCrystal adj s =
        s.setSeq (.property s.cfg.params.trimGroup s.cfg.params.trimOffset
          [BitVec.ofInt 8 (trimValue s.cfg.params adj)])) := by
  unfold startAdjustCrystal
  by_cases h : trimValue s.cfg.params adj < 0 ∨ (s.cfg.params.trimMax.toNat : Int) < trimValue s.cfg.params adj
  · exact .inl ⟨h, by simp [h]⟩
  · refine .inr ⟨by omega, by omega, by simp only [if_neg h]⟩

theorem startTransmitOperation_cases (paddr : BitVec 24) (len framecount : BitVec 16) (s : State) :
    (len = 0#16 ∧ startTransmitOperation paddr len framecount s = s.complete) ∨
    (len ≠ 0#16 ∧ s.cfg.params.maxPacketLen < len ∧
      startTransmitOperation paddr len framecount s = s.raise .payloadTooLarge) ∨
    (len ≠ 0#16 ∧ ¬ s.cfg.params.maxPacketLen < len ∧ framingOf framecount = none ∧
      startTransmitOperation paddr len framecount s = s.raise .invalidFraming) ∨
    (∃ f, len ≠ 0#16 ∧ ¬ s.cfg.params.maxPacketLen < len ∧ framingOf framecount = some f ∧
      ((pmemSize < paddr.toNat + len.toNat ∧
          startTransmitOperation paddr len framecount s = s.raise .bufferOutOfRange) ∨
       (paddr.toNat + len.toNat ≤ pmemSize ∧
          startTransmitOperation paddr len framecount s = s.setSeq (.txFirst ⟨paddr, len, framingCode f⟩)))) := by
  unfold startTransmitOperation
  by_cases h0 : len = 0#16
  · exact .inl ⟨h0, by simp only [if_pos h0]⟩
  · by_cases hm : s.cfg.params.maxPacketLen < len
    · exact .inr (.inl ⟨h0, hm, by simp only [if_neg h0, if_pos hm]⟩)
    · cases hf : framingOf framecount with
      | none => exact .inr (.inr (.inl ⟨h0, hm, rfl, by simp only [if_neg h0, if_neg hm]⟩))
      | some f =>
        refine .inr (.inr (.inr ⟨f, h0, hm, rfl, ?_⟩))
        by_cases hb : pmemSize < paddr.toNat + len.toNat
        · exact .inl ⟨hb, by simp only [if_neg h0, if_neg hm, if_pos hb]⟩
        · exact .inr ⟨by omega, by simp only [if_neg h0, if_neg hm, if_neg hb]⟩

end Sys2Proof.Machine
end

