-- ==== Sys2Proof/Tests/Slice0.lean ====
section
/-!
SUPPORT. The model's own tests: the ill-formed terms that each check refuses; words written out from 30_encoding.md; one or
two vectors of 95_test_vectors.md for each operation, each ONE step on a small state; and for every statement with
hypotheses, a state and operands that meet them (`witness_…`). The expected values are the spec's, under its reference
configuration (section 0 there).
-/

namespace Sys2Proof.Tests

open Sys2Proof.Machine

/-! ### Helpers -/

/-- The reference configuration of 95_test_vectors.md section 0. -/
def refConfig : Config := ⟨Params.reference, by decide⟩

/-- The reference configuration with a crystal of 1 Hz, the smallest: the data-rate range check can fail. -/
def slowCrystal : Config := ⟨{ Params.reference with xtalFreqHz := 1 }, by decide⟩

/-- The reference configuration with a reference divisor of 1 Hz: the word can exceed 28 bits. -/
def smallDivisor : Config := ⟨{ Params.reference with refDivisorHz := 1 }, by decide⟩

/-- An idle block in a lifecycle state, with the transport's next answers and one word to take. -/
def blockIn (lc : Lc) (answers : List Response) (w : Word := 0#64) : State :=
  { State.powerOn refConfig with lc := lc, answers := answers, program := [w] }

/-- The block of the TRANSMIT vectors: channel 7, and the bytes 1, 2, … from 0x13E on in PMEM. -/
def sender (answers : List Response) (w : Word := 0#64) : State :=
  { blockIn .ready answers w with curChannel := 7#8, pmem := [(0x13E, 1#8), (0x13F, 2#8), (0x140, 3#8), (0xFFFFFF, 9#8)] }

/-- The next state of an outcome, if it is one. -/
def nextOf (o : Host.Outcome State Fault Refusal) : Option State :=
  match o with
  | .next s => some s
  | .fault _ => none
  | .refused _ => none

/-- What a run of one operation shows: the lifecycle state, the status, the index and the trace. -/
def endOf (o : Host.Outcome State Fault Refusal) : Option (Lc × Status × BitVec 16 × List Event) :=
  (nextOf o).map fun t => (t.lc, t.status, t.errIndex, t.trace)

/-- The status, the number of transactions and the sizes of the FIFO writes. -/
def transmitEnd (o : Host.Outcome State Fault Refusal) : Option (Status × Nat × List Nat) :=
  (nextOf o).map fun t => (t.status, t.trace.length, (fifoWrites t.trace).map List.length)

/-! ### What the checks refuse -/

theorem smoke_channel : (Line.setFrequency 255).wf = true ∧ (Line.setFrequency 256).wf = false := by decide
theorem smoke_freq_hz : (Line.applyFrequency 4294967295 0).wf = true ∧ (Line.applyFrequency 4294967296 0).wf = false := by
  decide
theorem smoke_adj : (Line.applyFrequency 0 8388607).wf = true ∧ (Line.applyFrequency 0 8388608).wf = false ∧
    (Line.applyFrequency 0 (-8388608)).wf = true ∧ (Line.applyFrequency 0 (-8388609)).wf = false := by decide
theorem smoke_bps : (Line.setDataRate 65535).wf = true ∧ (Line.setDataRate 65536).wf = false := by decide
theorem smoke_mode : (Line.setModulation (.code 255)).wf = true ∧ (Line.setModulation (.code 256)).wf = false ∧
    (Line.setModulation (.name .fsk2LegacyPacket)).wf = true := by decide
theorem smoke_level : (Line.setPower 255).wf = true ∧ (Line.setPower 256).wf = false := by decide
theorem smoke_adj8 : (Line.adjustCrystal 127).wf = true ∧ (Line.adjustCrystal 128).wf = false ∧
    (Line.adjustCrystal (-128)).wf = true ∧ (Line.adjustCrystal (-129)).wf = false := by decide
theorem smoke_paddr : (Line.transmit 0xFFFFFF 0 0).wf = true ∧ (Line.transmit 0x1000000 0 0).wf = false := by decide
theorem smoke_len : (Line.transmit 0 65535 0).wf = true ∧ (Line.transmit 0 65536 0).wf = false := by decide
theorem smoke_framecount : (Line.transmit 0 0 65535).wf = true ∧ (Line.transmit 0 0 65536).wf = false := by decide
theorem smoke_entry : (⟨0#8, 0#8, 1#8, [0x52#8]⟩ : CfgEntry).wf = true ∧ (⟨0#8, 0#8, 2#8, [0x52#8]⟩ : CfgEntry).wf = false ∧
    (⟨0#8, 0#8, 0#8, []⟩ : CfgEntry).wf = true := by decide
theorem smoke_band : Params.wf { Params.reference with freqMinHz := 406000001#32 } = false := by decide
theorem smoke_integers : Params.wf { Params.reference with intLow := 0#8 } = false ∧
    Params.wf { Params.reference with intHigh := 0#8 } = false := by decide
theorem smoke_divisors : Params.wf { Params.reference with refDivisorHz := 0 } = false ∧
    Params.wf { Params.reference with xtalFreqHz := 0 } = false := by decide
theorem smoke_trim : Params.wf { Params.reference with baseTrim := 128#8 } = false := by decide
theorem smoke_table : Params.wf { Params.reference with cfgTable := [⟨0#8, 0#8, 2#8, [0x52#8]⟩] } = false := by decide
theorem smoke_fifo : Params.wf { Params.reference with fifoCapacity := 256 } = false ∧
    Params.wf { Params.reference with fifoCapacity := 0, chunkSize := 0 } = false := by decide
theorem smoke_chunk : Params.wf { Params.reference with chunkSize := 0 } = false ∧
    Params.wf { Params.reference with chunkSize := 65 } = false := by decide
theorem smoke_packet : Params.wf { Params.reference with maxPacketLen := 0#16 } = false := by decide
theorem smoke_polls : Params.wf { Params.reference with pollLimit := 0 } = false := by decide
theorem smoke_default_channel : Params.wf { Params.reference with defaultChannel := 41#8 } = false ∧
    Config.ofParams { Params.reference with defaultChannel := 41#8 } = none := by decide
theorem smoke_memory : Memory.wf [(2, 1#8), (5, 7#8)] = true ∧ Memory.wf [(5, 7#8), (2, 1#8)] = false ∧
    Memory.wf [(2, 0#8)] = false ∧ Memory.wf [(pmemSize, 1#8)] = false ∧ Memory.wf [(2, 1#8), (2, 1#8)] = false := by decide
theorem smoke_codes : Lc.ofCode 4#3 = some .halted ∧ Lc.ofCode 5#3 = none ∧ Status.ofCode 13#8 = some .illegalOperation ∧
    Status.ofCode 14#8 = none := by decide

/-! ### Words written out from rules R72 to R74 and R81 -/

theorem decode_reset : decode 0x0100000000000000#64 = .op .reset := by decide
theorem decode_configure : decode 0x0200000000000000#64 = .op .configure := by decide
theorem decode_verify : decode 0x0300000000000000#64 = .op .verify := by decide
theorem decode_setFrequency : decode 0x10000000000000C8#64 = .op (.setFrequency 200#8) := by decide
/-- The example of rule R81: `APPLY_FREQUENCY 403000000, -1`. -/
theorem decode_applyFrequency : decode 0x11FFFFFF18054AC0#64 = .op (.applyFrequency 403000000#32 0xFFFFFF#24) := by decide
theorem decode_setDataRate : decode 0x12000000000009C4#64 = .op (.setDataRate 2500#16) := by decide
theorem decode_setModulation : decode 0x1300000000000001#64 = .op (.setModulation 1#8) := by decide
theorem decode_setPower : decode 0x140000000000007F#64 = .op (.setPower 0x7F#8) := by decide
theorem decode_adjustCrystal : decode 0x15000000000000FD#64 = .op (.adjustCrystal 0xFD#8) := by decide
theorem decode_transmit : decode 0x20FFFFF003E80011#64 = .op (.transmit 0xFFFFF0#24 17#16 1000#16) := by decide
/-- Vectors DG1 to DG5 and the opcodes next to the ten. -/
theorem decode_illegal : decode 0x0000000000000000#64 = .illegal .unknownOpcode ∧
    decode 0x2A00000000000000#64 = .illegal .unknownOpcode ∧ decode 0x0400000000000000#64 = .illegal .unknownOpcode ∧
    decode 0x1600000000000000#64 = .illegal .unknownOpcode ∧ decode 0xFF00000000000000#64 = .illegal .unknownOpcode ∧
    decode 0x1000000000000105#64 = .illegal .reservedBits ∧ decode 0x0100000000000001#64 = .illegal .reservedBits ∧
    decode 0x1200000000010000#64 = .illegal .reservedBits := by decide
/-- The words of a program: P1's lines, and the example of rule R81. -/
theorem assemble_text : assembleText ["BOOT".toList, "SET_FREQUENCY 200".toList, "; nothing".toList,
      "APPLY_FREQUENCY 403000000, -1 ; x".toList] =
    some [0x0100000000000000#64, 0x0200000000000000#64, 0x0300000000000000#64, 0x10000000000000C8#64,
      0x11FFFFFF18054AC0#64] := by decide
theorem table_word : decodeTableWord 64 0x2000010000010064 = some (.transmit 0x100#24 100#16 1#16) := by decide

/-! ### One step of each operation -/

/-- Vector LC1. -/
theorem test_reset_ok : endOf (step (blockIn .unreset [.ok []] 0x0100000000000000#64)) =
    some (.resetDone, .ok, 0#16, [⟨.reset, .ok []⟩]) := by decide
/-- Vector LC2. -/
theorem test_reset_fail : endOf (step (blockIn .unreset [.fail] 0x0100000000000000#64)) =
    some (.halted, .transportError, 0#16, [⟨.reset, .fail⟩]) := by decide
/-- Vector LC4. -/
theorem test_configure_ok : endOf (step (blockIn .resetDone [.ok [], .ok []] 0x0200000000000000#64)) =
    some (.configuring, .ok, 0#16,
      [⟨.setProperty 0x00#8 0x00#8 1#8 [0x52#8], .ok []⟩, ⟨.setProperty 0x20#8 0x00#8 1#8 [0x02#8], .ok []⟩]) := by decide
/-- Vector LC5. -/
theorem test_configure_fail : endOf (step (blockIn .resetDone [.ok [], .fail] 0x0200000000000000#64)) =
    some (.halted, .transportError, 1#16,
      [⟨.setProperty 0x00#8 0x00#8 1#8 [0x52#8], .ok []⟩, ⟨.setProperty 0x20#8 0x00#8 1#8 [0x02#8], .fail⟩]) := by decide
/-- Vector LC8. -/
theorem test_verify_match : endOf (step (blockIn .configuring [.ok [0x44#8, 0x64#8]] 0x0300000000000000#64)) =
    some (.ready, .ok, 0#16, [⟨.readPartInfo, .ok [0x44#8, 0x64#8]⟩]) := by decide
/-- Vector LC9. -/
theorem test_verify_mismatch : endOf (step (blockIn .configuring [.ok [0x44#8, 0x63#8]] 0x0300000000000000#64)) =
    some (.halted, .hardwareMismatch, 0#16, [⟨.readPartInfo, .ok [0x44#8, 0x63#8]⟩]) := by decide
/-- Vectors SF3, SF4. -/
theorem test_setFrequency_clamp :
    (nextOf (step (blockIn .ready [] 0x1000000000000028#64))).map (fun t => (t.curChannel, t.status)) = some (40#8, .ok) ∧
    (nextOf (step (blockIn .ready [] 0x1000000000000029#64))).map (fun t => (t.curChannel, t.status)) = some (40#8, .ok) := by
  decide
/-- Vector DG6. -/
theorem test_setFrequency_guard :
    (nextOf (step (blockIn .unreset [] 0x1000000000000005#64))).map (fun t => (t.curChannel, t.status)) =
      some (0#8, .notReady) := by decide
/-- Vector AF19: the low band, a negative adjustment. -/
theorem test_applyFrequency_low : endOf (step (blockIn .ready [.ok []] 0x11FFFC1817FDA9A0#64)) =
    some (.ready, .ok, 0#16,
      [⟨.setProperty 0x40#8 0x00#8 5#8 [0x3C#8, 0x00#8, 0x07#8, 0x5E#8, 0x8E#8], .ok []⟩]) := by decide
/-- Vector AF10: a word of -1. -/
theorem test_applyFrequency_negative : endOf (step (blockIn .ready [] 0x11FFFFFF18054AC0#64)) =
    some (.ready, .frequencyOutOfRange, 0#16, []) := by decide
/-- Vector DR11. -/
theorem test_setDataRate_ok :
    (nextOf (step (blockIn .ready [.ok [0x05#8, 0x8C#8, 0xBA#8, 0x80#8], .ok []] 0x120000000000FFFF#64))).map
        (fun t => (t.curDataRate, t.status, t.trace.getLast?)) =
      some (65535#16, .ok, some ⟨.setProperty 0x20#8 0x03#8 3#8 [0x27#8, 0xFF#8, 0xD8#8], .ok []⟩) := by decide
/-- Vector DR13. -/
theorem test_setDataRate_fail :
    (nextOf (step (blockIn .ready [.ok [0x01#8, 0x8C#8, 0xBA#8, 0x80#8], .fail] 0x1200000000002580#64))).map
        (fun t => (t.curDataRate, t.status, t.trace.getLast?)) =
      some (2500#16, .transportError, some ⟨.setProperty 0x20#8 0x03#8 3#8 [0x01#8, 0x77#8, 0x00#8], .fail⟩) := by decide
/-- Vector LK2. -/
theorem test_setModulation_cw : endOf (step (blockIn .ready [.ok []] 0x1300000000000001#64)) =
    some (.ready, .ok, 0#16, [⟨.setProperty 0x20#8 0x00#8 1#8 [0x10#8], .ok []⟩]) := by decide
/-- Vector LK5. -/
theorem test_setModulation_unknown : endOf (step (blockIn .ready [] 0x1300000000000004#64)) =
    some (.ready, .invalidModulation, 0#16, []) := by decide
/-- Vector LK9. -/
theorem test_setPower_pass : endOf (step (blockIn .ready [.ok []] 0x14000000000000FF#64)) =
    some (.ready, .ok, 0#16, [⟨.setProperty 0x22#8 0x01#8 1#8 [0xFF#8], .ok []⟩]) := by decide
/-- Vector DG10. -/
theorem test_setPower_guard : endOf (step (blockIn .configuring [] 0x1400000000000005#64)) =
    some (.configuring, .notReady, 0#16, []) := by decide
/-- Vectors LK12, LK13, LK15: an adjustment of -3, and both ends of the range. -/
theorem test_adjustCrystal_sign :
    [0x15000000000000FD#64, 0x150000000000003F#64, 0x15000000000000C0#64].map
        (fun w => (nextOf (step (blockIn .ready [.ok []] w))).map fun t => t.trace.map Event.tx) =
      [some [.setProperty 0x00#8 0x00#8 1#8 [0x3D#8]], some [.setProperty 0x00#8 0x00#8 1#8 [0x7F#8]],
        some [.setProperty 0x00#8 0x00#8 1#8 [0x00#8]]] := by decide
/-- Vectors LK14, LK16. -/
theorem test_adjustCrystal_range :
    endOf (step (blockIn .ready [] 0x1500000000000040#64)) = some (.ready, .trimOutOfRange, 0#16, []) ∧
    endOf (step (blockIn .ready [] 0x15000000000000BF#64)) = some (.ready, .trimOutOfRange, 0#16, []) := by decide
/-- Vector TX8: one wait, a chunk of one byte, and the start-transmit with the framing constant. -/
theorem test_transmit_wait :
    (nextOf (step (sender [.ok [], .ok [32#8], .ok [], .ok []] 0x2000010000C80041#64))).map
        (fun t => (t.status, t.trace.length, (t.trace.drop 1).map Event.tx)) =
      some (.ok, 4, [.readFifoFreeSpace, .writeFifo [3#8], .startTx 7#8 0x00#8 0x1B85#16]) := by decide
/-- Vector TX10: three short polls end the wait. -/
theorem test_transmit_timeout :
    transmitEnd (step (sender [.ok [], .ok [31#8], .ok [31#8], .ok [31#8]] 0x2000010003E80041#64)) =
      some (.fifoTimeout, 4, [64]) := by decide
/-- Vectors DG2, DG4. -/
theorem test_illegal : endOf (step (blockIn .halted [] 0x2A00000000000000#64)) =
      some (.halted, .illegalOperation, 0#16, []) ∧
    endOf (step (blockIn .unreset [] 0x0100000000000001#64)) = some (.unreset, .illegalOperation, 0#16, []) := by decide

/-! ### Witnesses: states and operands that meet the statements' hypotheses -/

theorem witness_DecodedWordIsTheEncoding : decode 0x12000000000009C4#64 = .op (.setDataRate 2500#16) := by decide

theorem witness_AssembledLinesDecode_in_range : (Line.transmit 0xFFFFFF 65535 65535).wf = true := by decide
theorem witness_AssembledLinesDecode_out_of_range : (Line.transmit 0x1000000 0 0).wf = false := by decide
theorem witness_AssembledLinesDecode_unsigned :
    (Line.setFrequency 255).wf = true ∧ (Line.setDataRate 65535).wf = true ∧ (Line.setModulation (.code 255)).wf = true ∧
      (Line.setPower 255).wf = true := by decide
theorem witness_AssembledLinesDecode_signed :
    (Line.applyFrequency 4294967295 (-8388608)).wf = true ∧ (Line.adjustCrystal (-128)).wf = true := by decide

theorem witness_StepRunsDecodedOperation :
    ∃ rest, (blockIn .ready [] 0x1000000000000029#64).seq = .idle ∧
      (blockIn .ready [] 0x1000000000000029#64).program = 0x1000000000000029#64 :: rest ∧
      decode 0x1000000000000029#64 = .op (.setFrequency 41#8) := ⟨[], rfl, rfl, by decide⟩

theorem witness_IllegalWordEndsAtOnce_opcode :
    (blockIn .halted [] 0x2A00000000000000#64).seq = .idle ∧
      (blockIn .halted [] 0x2A00000000000000#64).program = [0x2A00000000000000#64] ∧
      illegalWord (0x2A00000000000000#64).toNat = true := ⟨rfl, rfl, by decide⟩
/-- The reserved bit next to the operand, for each format that has one. -/
theorem witness_IllegalWordEndsAtOnce_reserved :
    illegalWord 0x0100000000000001 = true ∧ illegalWord 0x1000000000000100 = true ∧
      illegalWord 0x1200000000010000 = true ∧ illegalWord 0x10000000000000FF = false ∧
      illegalWord 0x120000000000FFFF = false := by decide

theorem witness_IdleBlockKeepsAllState : (State.powerOn refConfig).seq = .idle ∧ (State.powerOn refConfig).program = [] :=
  ⟨rfl, rfl⟩

theorem witness_PlacedWordRunsNext : decode (BitVec.ofNat 64 0x1000000000000029) = .op (.setFrequency 41#8) := by decide

/-- A block in the middle of a VERIFY. -/
def verifying : State := (blockIn .configuring [.ok [0x44#8, 0x64#8]]).setSeq .verify

theorem witness_OperationIsItsTransactionsInOrder :
    ∃ t, verifying.seq ≠ .idle ∧ advance verifying = .next t := ⟨_, by decide, rfl⟩

theorem witness_BusyBlockTakesNoOperation : verifying.seq ≠ .idle := by decide

theorem witness_GuardEndsWithStatusOnly_guarded :
    (blockIn .resetDone []).seq = .idle ∧ mayRun .verify (blockIn .resetDone []).lc = false ∧
      mayRun (.transmit 0#24 0#16 0#16) Lc.configuring = false ∧ mayRun .configure Lc.halted = false := by decide
theorem witness_GuardEndsWithStatusOnly_runs :
    ∃ t, (blockIn .halted [.ok []]).seq = .idle ∧ mayRun .reset (blockIn .halted [.ok []]).lc = true ∧
      exec .reset (blockIn .halted [.ok []]) = .next t := ⟨_, rfl, rfl, rfl⟩

theorem witness_ResetOperation_ok :
    (blockIn .unreset [.ok []]).seq = .idle ∧ (blockIn .unreset [.ok []]).answerAt 0 .reset = .ok [] := by decide
theorem witness_ResetOperation_fail :
    (blockIn .ready [.fail]).seq = .idle ∧ (blockIn .ready [.fail]).answerAt 0 .reset = .fail := by decide
theorem witness_ResetOperation_halted :
    ∃ t, (Instr.verify ≠ .reset) ∧ (blockIn .halted []).lc = .halted ∧ exec .verify (blockIn .halted []) = .next t :=
  ⟨_, by decide, rfl, rfl⟩

theorem witness_ConfigureReplaysTheTable_guarded :
    (blockIn .unreset []).lc = .unreset ∧ (blockIn .halted []).lc = .halted := by decide
theorem witness_ConfigureReplaysTheTable_ok :
    (blockIn .resetDone [.ok [], .ok []]).lc = .resetDone ∧
      ∀ (i : Nat) (e : CfgEntry), (blockIn .resetDone [.ok [], .ok []]).cfg.params.cfgTable[i]? = some e →
        (blockIn .resetDone [.ok [], .ok []]).answerAt i (tableWrite e) = .ok [] := by
  refine ⟨rfl, fun i e h => ?_⟩
  match i, h with
  | 0, h => cases h; rfl
  | 1, h => cases h; rfl
  | n + 2, h => cases h
/-- The failure at the last entry, the others written. -/
theorem witness_ConfigureReplaysTheTable_fail :
    ∃ e, (blockIn .ready [.ok [], .fail]).lc = .ready ∧
      (blockIn .ready [.ok [], .fail]).cfg.params.cfgTable[1]? = some e ∧
      (∀ (j : Nat) (d : CfgEntry), j < 1 → (blockIn .ready [.ok [], .fail]).cfg.params.cfgTable[j]? = some d →
        (blockIn .ready [.ok [], .fail]).answerAt j (tableWrite d) = .ok []) ∧
      (blockIn .ready [.ok [], .fail]).answerAt 1 (tableWrite e) = .fail := by
  refine ⟨_, rfl, rfl, fun j d hj h => ?_, rfl⟩
  match j, h with
  | 0, h => cases h; rfl
  | n + 1, _ => omega

theorem witness_VerifyComparesThePart_guarded :
    (blockIn .resetDone []).seq = .idle ∧ (blockIn .resetDone []).lc ≠ .configuring ∧
      (blockIn .resetDone []).lc ≠ .ready := by decide
theorem witness_VerifyComparesThePart_match :
    (blockIn .configuring [.ok [0x44#8, 0x64#8]]).answerAt 0 .readPartInfo = .ok [0x44#8, 0x64#8] ∧
      (blockIn .configuring [.ok [0x44#8, 0x64#8]]).cfg.params.expectedPartId = 0x44#8 ++ 0x64#8 := by decide
theorem witness_VerifyComparesThePart_mismatch :
    (blockIn .ready [.ok [0x44#8, 0x63#8]]).lc = .ready ∧
      (blockIn .ready [.ok [0x44#8, 0x63#8]]).answerAt 0 .readPartInfo = .ok [0x44#8, 0x63#8] ∧
      (blockIn .ready [.ok [0x44#8, 0x63#8]]).cfg.params.expectedPartId ≠ 0x44#8 ++ 0x63#8 := by decide
theorem witness_VerifyComparesThePart_fail :
    (blockIn .configuring [.fail]).lc = .configuring ∧ (blockIn .configuring [.fail]).answerAt 0 .readPartInfo = .fail := by
  decide

theorem witness_LifecycleTransitions :
    ∃ t, (blockIn .unreset [.fail]).seq = .idle ∧ exec .reset (blockIn .unreset [.fail]) = .next t := ⟨_, rfl, rfl⟩

theorem witness_OnlyResetLeavesHalted :
    ∃ t, (blockIn .halted [.ok []] 0x0100000000000000#64).seq = .idle ∧
      (blockIn .halted [.ok []] 0x0100000000000000#64).lc = .halted ∧
      step (blockIn .halted [.ok []] 0x0100000000000000#64) = .next t ∧ t.lc ≠ .halted :=
  ⟨_, rfl, rfl, rfl, by decide⟩

/-- A block that boots: a reset, two entries, and the expected part. -/
def booting : State := blockIn .unreset [.ok [], .ok [], .ok [], .ok [0x44#8, 0x64#8]]

theorem witness_BootSequenceReachesReady :
    booting.seq = .idle ∧
      (∀ (n : Nat) (tx : Transaction), n < booting.cfg.params.cfgTable.length + 2 →
        ∃ bytes, booting.answerAt n tx = .ok bytes) ∧
      booting.answerAt (booting.cfg.params.cfgTable.length + 1) .readPartInfo = .ok [0x44#8, 0x64#8] ∧
      booting.cfg.params.expectedPartId = 0x44#8 ++ 0x64#8 := by
  refine ⟨rfl, fun n tx h => ?_, by decide, by decide⟩
  match n, h with
  | 0, _ => exact ⟨_, rfl⟩
  | 1, _ => exact ⟨_, rfl⟩
  | 2, _ => exact ⟨_, rfl⟩
  | 3, _ => exact ⟨_, rfl⟩
  | m + 4, h => exact absurd h (by change ¬(m + 4 < 4); omega)

theorem witness_SetFrequencyStoresClampedChannel :
    (blockIn .ready []).seq = .idle ∧ (blockIn .ready []).lc = .ready ∧ (blockIn .halted []).lc ≠ .ready := by decide

/-- The ends of both bands, and both ends of the frequencies that round up to `2^19`. -/
theorem witness_FractionWordRangesAtDefault :
    (Params.reference.freqMinHz = 400000000#32 ∧ Params.reference.freqMaxHz = 406000000#32 ∧
      Params.reference.bandMidHz = 403000000#32 ∧ Params.reference.intLow = 61#8 ∧ Params.reference.intHigh = 62#8 ∧
      Params.reference.refDivisorHz = 6500000) ∧
    [400000000#32, 402999994#32, 402999999#32, 403000000#32, 406000000#32].all (inBand Params.reference) = true ∧
    [400000000#32, 402999994#32, 402999999#32, 403000000#32, 406000000#32].map (fractionWord Params.reference) =
      [282309, 524288, 524288, 0, 241979] := by decide

theorem witness_ApplyFrequencyWritesTheWord_band :
    (399999999#32 < (blockIn .ready []).cfg.params.freqMinHz) ∧ ((blockIn .ready []).cfg.params.freqMaxHz < 406000001#32) ∧
      (blockIn .ready []).lc = .ready ∧ (blockIn .ready []).seq = .idle := by decide
/-- A word of -1 (vector AF10), a word of 0 (AF2), and the first word past 28 bits. -/
theorem witness_ApplyFrequencyWritesTheWord_word :
    adjustedWord Params.reference 403000000#32 (BitVec.ofInt 24 (-1)) = -1 ∧
      adjustedWord Params.reference 400000000#32 (BitVec.ofInt 24 (-282309)) = 0 ∧
      2 ^ 28 ≤ adjustedWord smallDivisor.params 400000000#32 0#24 := by decide
/-- The same two words by the exact rational formula the statement uses. -/
theorem witness_ApplyFrequencyWritesTheWord_rational :
    roundedFraction Params.reference 403000000#32 + (BitVec.ofInt 24 (-1)).toInt < 0 ∧
      roundedFraction Params.reference 403000000#32 + (0#24).toInt = 0 := by
  have h : roundedFraction Params.reference 403000000#32 = 0 := by
    have hb : Params.reference.bandMidHz.toNat = 403000000 := by decide
    have hf : (403000000#32).toNat = 403000000 := by decide
    have hi : Params.reference.intHigh.toNat = 62 := by decide
    have hr : Params.reference.refDivisorHz = 6500000 := rfl
    unfold roundedFraction
    simp only [hb, hf, hi, hr]
    norm_num
  rw [h]
  exact ⟨by decide, by decide⟩
/-- A word past 28 bits by the exact rational formula. -/
theorem witness_ApplyFrequencyWritesTheWord_above :
    2 ^ 28 ≤ roundedFraction smallDivisor.params 400000000#32 + (0#24).toInt := by
  have hb : smallDivisor.params.bandMidHz.toNat = 403000000 := by decide
  have hf : (400000000#32).toNat = 400000000 := by decide
  have hi : smallDivisor.params.intLow.toNat = 61 := by decide
  have hr : smallDivisor.params.refDivisorHz = 1 := rfl
  have ha : (0#24).toInt = 0 := by decide
  unfold roundedFraction
  rw [hb, hf, hi, hr, ha, add_zero, Int.le_floor]
  norm_num
theorem witness_ApplyFrequencyWritesTheWord_answers :
    (blockIn .ready [.ok []]).answerAt 0 (.setProperty 0x40#8 0x00#8 5#8 [0x3D#8, 0#8, 0#8, 0#8, 0#8]) = .ok [] ∧
      (blockIn .ready [.fail]).answerAt 0 (.setProperty 0x40#8 0x00#8 5#8 [0x3D#8, 0#8, 0#8, 0#8, 0#8]) = .fail := by decide

theorem witness_ApplyFrequencyIsDeterministic :
    ∃ t t', (blockIn .ready [.ok []]).lc = .ready ∧ (sender [.fail]).lc = .ready ∧
      (blockIn .ready [.ok []]).cfg.params = (sender [.fail]).cfg.params ∧
      exec (.applyFrequency 403000000#32 0#24) (blockIn .ready [.ok []]) = .next t ∧
      exec (.applyFrequency 403000000#32 0#24) (sender [.fail]) = .next t' := ⟨_, _, rfl, rfl, rfl, rfl, rfl⟩

theorem witness_SetDataRateScalesAndWrites_read :
    (blockIn .ready [.ok [0x01#8, 0x8C#8, 0xBA#8, 0x80#8]]).answerAt 0 (.getProperty 0x20#8 0x06#8 4#8) =
        .ok [0x01#8, 0x8C#8, 0xBA#8, 0x80#8] ∧
      (blockIn .ready [.fail]).answerAt 0 (.getProperty 0x20#8 0x06#8 4#8) = .fail := by decide
/-- At 1 bit per second the register values next to `2^24`, on either side of it. -/
theorem witness_SetDataRateScalesAndWrites_range :
    scaledDataRate slowCrystal.params 1 1677721 = 16777210 ∧ scaledDataRate slowCrystal.params 1 1677722 = 16777220 ∧
      16777210 < 2 ^ 24 ∧ 2 ^ 24 ≤ 16777220 := by decide
theorem witness_SetDataRateScalesAndWrites_write :
    (blockIn .ready [.ok [0x01#8, 0x8C#8, 0xBA#8, 0x80#8], .ok []]).answerAt 1
        (.setProperty 0x20#8 0x03#8 3#8 [0x00#8, 0x61#8, 0xA8#8]) = .ok [] ∧
      (blockIn .ready [.ok [0x01#8, 0x8C#8, 0xBA#8, 0x80#8], .fail]).answerAt 1
        (.setProperty 0x20#8 0x03#8 3#8 [0x00#8, 0x61#8, 0xA8#8]) = .fail := by decide

/-- The smallest crystal above `2^26 / 7` Hz. -/
theorem witness_LargeCrystalFitsEveryRate :
    2 ^ 26 < 7 * ({ Params.reference with xtalFreqHz := 9586981 } : Params).xtalFreqHz ∧ ¬(2 ^ 26 < 7 * 9586980) := by decide

theorem witness_DataRateStoredOnlyOnSuccess :
    ∃ t t', exec (.setDataRate 9600#16) (blockIn .ready [.ok [0x01#8, 0x8C#8, 0xBA#8, 0x80#8], .ok []]) = .next t ∧
      t.status = .ok ∧ exec (.setDataRate 9600#16) (blockIn .ready [.fail]) = .next t' ∧ t'.status ≠ .ok :=
  ⟨_, _, rfl, by decide, rfl, by decide⟩

theorem witness_SetModulationWritesVariantByte :
    3 < (4#8).toNat ∧ [Params.reference.modByteFsk2Packet, Params.reference.modByteCwPn9, Params.reference.modByteFsk2Pn9,
        Params.reference.modByteFsk2Legacy][(3#8).toNat]? = some 0x03#8 ∧
      (blockIn .ready [.ok []]).answerAt 0 (.setProperty 0x20#8 0x00#8 1#8 [0x03#8]) = .ok [] ∧
      (blockIn .ready [.fail]).answerAt 0 (.setProperty 0x20#8 0x00#8 1#8 [0x03#8]) = .fail := by decide

theorem witness_SetPowerPassesTheLevelThrough :
    (blockIn .ready [.ok []]).seq = .idle ∧ (blockIn .ready [.ok []]).lc = .ready ∧
      (blockIn .ready [.ok []]).answerAt 0 (.setProperty 0x22#8 0x01#8 1#8 [0xFF#8]) = .ok [] ∧
      (blockIn .ready [.fail]).answerAt 0 (.setProperty 0x22#8 0x01#8 1#8 [0xFF#8]) = .fail := by decide

/-- Both ends of the trim range and the values next to them (vectors LK13 to LK16). -/
theorem witness_AdjustCrystalWritesTheTrim :
    (Params.reference.baseTrim.toNat : Int) + (0xBF#8).toInt < 0 ∧
      (Params.reference.trimMax.toNat : Int) < (Params.reference.baseTrim.toNat : Int) + (0x40#8).toInt ∧
      ((0x00#8).toNat : Int) = (Params.reference.baseTrim.toNat : Int) + (0xC0#8).toInt ∧
      ((0x7F#8).toNat : Int) = (Params.reference.baseTrim.toNat : Int) + (0x3F#8).toInt ∧
      0x7F#8 ≤ Params.reference.trimMax ∧
      (blockIn .ready [.ok []]).answerAt 0 (.setProperty 0x00#8 0x00#8 1#8 [0x7F#8]) = .ok [] ∧
      (blockIn .ready [.fail]).answerAt 0 (.setProperty 0x00#8 0x00#8 1#8 [0x7F#8]) = .fail := by decide

/-- A length just too great, an unknown repeat count, and a payload one byte past PMEM (vectors TX4 to TX7). -/
theorem witness_TransmitChecksInOrder :
    (sender []).lc = .ready ∧ Params.reference.maxPacketLen < 8192#16 ∧ 8191#16 ≤ Params.reference.maxPacketLen ∧
      framingConstant 7 = none ∧ framingConstant 1 ≠ none ∧ 2 ^ 24 < (0xFFFFF0#24).toNat + (17#16).toNat ∧
      ¬(2 ^ 24 < (0xFFFFF0#24).toNat + (16#16).toNat) := by decide

/-- A payload of exactly the FIFO's capacity (vector TX9), and one that ends with PMEM (vector TX7). -/
theorem witness_ShortTransmitIsOneWriteAndStart :
    (sender [.ok [], .ok []]).seq = .idle ∧ (sender [.ok [], .ok []]).lc = .ready ∧ 64#16 ≠ 0#16 ∧
      64#16 ≤ (sender [.ok [], .ok []]).cfg.params.maxPacketLen ∧ framingConstant (1#16).toNat = some 0x0035#16 ∧
      (0xFFFFC0#24).toNat + (64#16).toNat ≤ 2 ^ 24 ∧
      (64#16).toNat ≤ (sender [.ok [], .ok []]).cfg.params.fifoCapacity ∧
      (sender [.ok [], .ok []]).answerAt 0 (.writeFifo ((sender [.ok [], .ok []]).payload 0xFFFFC0#24 64#16)) = .ok [] ∧
      (sender [.ok [], .ok []]).answerAt 1 (.startTx 7#8 0x00#8 0x0035#16) = .ok [] := by decide

/-- Two waits, the first poll of each answered with exactly `CHUNK_SIZE`, the writes with no byte. -/
def spacious : State := sender [.ok [], .ok [32#8], .ok [], .ok [32#8], .ok [], .ok []]

theorem witness_TransmitCompletesWhenSpaceIsReported :
    spacious.seq = .idle ∧ spacious.lc = .ready ∧ 100#16 ≠ 0#16 ∧ 100#16 ≤ spacious.cfg.params.maxPacketLen ∧
      framingConstant (1#16).toNat = some 0x0035#16 ∧ (0x100#24).toNat + (100#16).toNat ≤ 2 ^ 24 ∧
      (∀ (j : Nat) (bytes : List Byte), j ≤ transmitWaits spacious.cfg.params (100#16).toNat →
        spacious.answerAt (2 * j) (.writeFifo bytes) = .ok []) ∧
      (∀ j : Nat, j < transmitWaits spacious.cfg.params (100#16).toNat →
        ∃ free : Byte, spacious.answerAt (2 * j + 1) .readFifoFreeSpace = .ok [free] ∧
          spacious.cfg.params.chunkSize ≤ free.toNat) ∧
      spacious.answerAt (2 * transmitWaits spacious.cfg.params (100#16).toNat + 1)
        (.startTx spacious.curChannel spacious.cfg.params.startTxCondition 0x0035#16) = .ok [] := by
  refine ⟨rfl, rfl, by decide, by decide, by decide, by decide, fun j _ h => ?_, fun j h => ?_, by decide⟩
  · have h2 : j ≤ 2 := h
    match j, h2 with
    | 0, _ => rfl
    | 1, _ => rfl
    | 2, _ => rfl
    | m + 3, h => omega
  · have h2 : j < 2 := h
    match j, h2 with
    | 0, _ => exact ⟨32#8, rfl, by decide⟩
    | 1, _ => exact ⟨32#8, rfl, by decide⟩
    | m + 2, h => omega

/-- The events that answer a block whose script is theirs. -/
theorem answersAs_of_checked {s : State} {events : List Event}
    (h : (List.range events.length).all (fun n => (events[n]?).all fun e => decide (s.answerAt n e.tx = e.answer)) = true) :
    s.answersAs events := by
  intro n e he
  have hn : n < events.length := by
    by_contra hge
    rw [List.getElem?_eq_none (by omega)] at he
    cases he
  have hall := List.all_eq_true.mp h n (List.mem_range.mpr hn)
  simpa [he] using hall

/-- Four short polls in all, two in each of two waits, `POLL_LIMIT` being 3 (as in vectors TX1 and TX14). -/
def fourShortPolls : List Wait := [⟨[10#8, 31#8], 32#8⟩, ⟨[0#8, 31#8], 255#8⟩]

theorem witness_ShortPollsAreCountedPerWait :
    ∃ (s : State) (events : List Event), s.seq = .idle ∧ s.lc = .ready ∧ 97#16 ≤ s.cfg.params.maxPacketLen ∧
      framingConstant (1#16).toNat = some 0x0035#16 ∧ (0x100#24).toNat + (97#16).toNat ≤ 2 ^ 24 ∧
      fourShortPolls.length = transmitWaits s.cfg.params (97#16).toNat ∧
      (∀ w ∈ fourShortPolls, w.wf s.cfg.params = true) ∧
      events = streamEvents s.cfg.params (s.payload 0x100#24 97#16) fourShortPolls ++
        [⟨.startTx s.curChannel s.cfg.params.startTxCondition 0x0035#16, .ok []⟩] ∧
      s.answersAs events :=
  ⟨sender [.ok [], .ok [10#8], .ok [31#8], .ok [32#8], .ok [], .ok [0#8], .ok [31#8], .ok [255#8], .ok [], .ok []], _,
    rfl, rfl, by decide, by decide, by decide, by decide, by decide, rfl, answersAs_of_checked (by decide)⟩

/-- A first wait with two short polls, and a second one with three. -/
theorem witness_LaterWaitTimesOutOnItsOwnPolls :
    ∃ (s : State) (events : List Event), s.seq = .idle ∧ s.lc = .ready ∧ 97#16 ≤ s.cfg.params.maxPacketLen ∧
      framingConstant (1#16).toNat = some 0x0035#16 ∧ (0x100#24).toNat + (97#16).toNat ≤ 2 ^ 24 ∧
      (fourShortPolls.take 1).length < transmitWaits s.cfg.params (97#16).toNat ∧
      (∀ w ∈ fourShortPolls.take 1, w.wf s.cfg.params = true) ∧
      [31#8, 0#8, 31#8].length = s.cfg.params.pollLimit ∧ tooShort s.cfg.params [31#8, 0#8, 31#8] = true ∧
      events = streamEvents s.cfg.params (s.payload 0x100#24 97#16) (fourShortPolls.take 1) ++
        [31#8, 0#8, 31#8].map pollEvent ∧
      s.answersAs events :=
  ⟨sender [.ok [], .ok [10#8], .ok [31#8], .ok [32#8], .ok [], .ok [31#8], .ok [0#8], .ok [31#8]], _,
    rfl, rfl, by decide, by decide, by decide, by decide, by decide, by decide, by decide, rfl,
    answersAs_of_checked (by decide)⟩

theorem witness_TransmitWritesCarryThePayload :
    ∃ t events, exec (.transmit 0x100#24 65#16 1#16) (sender [.ok [], .ok [32#8], .ok [], .ok []]) = .next t ∧
      t.trace = (sender [.ok [], .ok [32#8], .ok [], .ok []]).trace ++ events ∧ startsTransmission events = true :=
  ⟨_, _, rfl, rfl, by decide⟩

theorem witness_FifoTimeoutAfterPollLimit :
    (sender [.ok [], .ok [31#8], .ok [0#8], .ok [31#8]]).cfg.params.fifoCapacity < (65#16).toNat ∧
      65#16 ≤ Params.reference.maxPacketLen ∧ framingConstant (1000#16).toNat = some 0x0000#16 ∧
      (0x200#24).toNat + (65#16).toNat ≤ 2 ^ 24 ∧
      (sender [.ok [], .ok [31#8], .ok [0#8], .ok [31#8]]).answerAt 0
        (.writeFifo (((sender []).payload 0x200#24 65#16).take 64)) = .ok [] ∧
      [31#8, 0#8, 31#8].length = Params.reference.pollLimit ∧
      ∀ (n : Nat) (b : Byte), [31#8, 0#8, 31#8][n]? = some b →
        (sender [.ok [], .ok [31#8], .ok [0#8], .ok [31#8]]).answerAt (n + 1) .readFifoFreeSpace = .ok [b] ∧
        b.toNat < Params.reference.chunkSize := by
  refine ⟨by decide, by decide, by decide, by decide, rfl, rfl, fun n b h => ?_⟩
  match n, h with
  | 0, h => cases h; exact ⟨rfl, by decide⟩
  | 1, h => cases h; exact ⟨rfl, by decide⟩
  | 2, h => cases h; exact ⟨rfl, by decide⟩
  | m + 3, h => cases h

theorem witness_StartTransmitComesLast :
    ∃ t events, (sender [.ok [], .fail]).lc = .ready ∧ 1#16 ≠ 0#16 ∧
      exec (.transmit 0x100#24 1#16 1#16) (sender [.ok [], .fail]) = .next t ∧
      t.trace = (sender [.ok [], .fail]).trace ++ events ∧ events ≠ [] ∧ startsTransmission events = true :=
  ⟨_, _, rfl, by decide, rfl, rfl, by decide, by decide⟩

theorem witness_OperationStatuses :
    ∃ t, exec (.setFrequency 255#8) (blockIn .ready []) = .next t := ⟨_, rfl⟩

/-- A CONFIGURE that fails at entry 0, at entry 1, and not at all. -/
theorem witness_ErrIndexNamesTheFailingEntry :
    ∃ t u v, exec .configure (blockIn .resetDone [.fail]) = .next t ∧ t.status = .transportError ∧ t.errIndex = 0#16 ∧
      exec .configure (blockIn .resetDone [.ok [], .fail]) = .next u ∧ u.status = .transportError ∧ u.errIndex = 1#16 ∧
      exec .configure (blockIn .resetDone [.ok [], .ok []]) = .next v ∧ v.status = .ok :=
  ⟨_, _, _, rfl, by decide, by decide, rfl, by decide, by decide, rfl, by decide⟩

theorem witness_OperationFrame :
    ∃ t, exec (.setPower 5#8) (sender [.ok []]) = .next t := ⟨_, rfl⟩

theorem witness_EveryOperationEnds : (sender []).seq = .idle := by decide

/-- The stored channel at its greatest value, and a SET_FREQUENCY past it. -/
theorem witness_ChannelNeverExceedsLimit :
    ∃ t, (blockIn .ready [] 0x10000000000000FF#64).curChannel ≤
        (blockIn .ready [] 0x10000000000000FF#64).cfg.params.channelLimitUpper ∧
      step (blockIn .ready [] 0x10000000000000FF#64) = .next t ∧ t.curChannel = 40#8 := ⟨_, by decide, rfl, by decide⟩

theorem powerOn_refConfig_inv : (State.powerOn refConfig).Inv :=
  ⟨by decide, by decide, by decide, fun h => absurd rfl h, fun _ h => absurd h List.not_mem_nil⟩

theorem blockIn_inv (lc : Lc) (answers : List Response) (w : Word) : (blockIn lc answers w).Inv :=
  ⟨powerOn_refConfig_inv.1, powerOn_refConfig_inv.2, rfl, fun h => absurd rfl h, fun _ h => absurd h List.not_mem_nil⟩

theorem witness_StepKeepsInvariant :
    ∃ t, (blockIn .ready [.fail] 0x1400000000000005#64).Inv ∧ step (blockIn .ready [.fail] 0x1400000000000005#64) = .next t :=
  ⟨_, blockIn_inv _ _ _, rfl⟩

/-- A TRANSMIT of 65 bytes in its last allowed poll. -/
def polling : State := (sender [.ok [31#8]]).setSeq (.txPoll ⟨0x100#24, 65#16, 0x0035#16⟩ 64 2)

theorem polling_inv : polling.Inv :=
  ⟨by decide, by decide, by decide, fun h => absurd rfl h, fun _ h => absurd h List.not_mem_nil⟩

theorem witness_TransactionKeepsInvariant : ∃ t, polling.Inv ∧ advance polling = .next t := ⟨_, polling_inv, rfl⟩

theorem witness_StepNeverStops : polling.Inv := polling_inv

/-- The first and the last borrowed byte, and the bytes next to them. -/
theorem witness_HostWriteChangesOneByte :
    polling.Inv ∧ polling.borrowed (0x100#24).toNat = true ∧ polling.borrowed (0x140#24).toNat = true ∧
      polling.borrowed (0xFF#24).toNat = false ∧ polling.borrowed (0x141#24).toNat = false :=
  ⟨polling_inv, by decide, by decide, by decide, by decide⟩

/-- The greatest values each clause admits. -/
theorem witness_MultiByteValuesAreBigEndian :
    frequencyBytes 62#8 (2 ^ 28 - 1) = [61#8, 0x0F#8, 0xFF#8, 0xFF#8, 0xFF#8] ∧
      dataRateBytes (2 ^ 24 - 1) = [0xFF#8, 0xFF#8, 0xFF#8] ∧
      (Transaction.startTx 7#8 0#8 0x1B85#16).requestBytes = [7#8, 0#8, 0x1B#8, 0x85#8] := by decide

theorem witness_CanonicalMemoryIsUnique : Memory.wf [(0, 1#8), (0xFFFFFF, 2#8)] = true := by decide

/-- Another byte just before the payload, and one just after it. -/
theorem witness_TransmitReadsOnlyItsPayload :
    ∃ t, (∀ a : Nat, (0x140#24).toNat ≤ a → a < (0x140#24).toNat + (1#16).toNat →
        Memory.read [(0x13F, 8#8), (0x140, 3#8), (0x141, 8#8)] a = (sender [.ok [], .ok []]).pmem.read a) ∧
      exec (.transmit 0x140#24 1#16 1#16) (sender [.ok [], .ok []]) = .next t := by
  refine ⟨_, fun a h1 h2 => ?_, rfl⟩
  have h : a = 0x140 := by
    have e1 : (0x140#24).toNat = 0x140 := rfl
    have e2 : (1#16).toNat = 1 := rfl
    omega
  subst h
  decide

end Sys2Proof.Tests
end

section
/-!
PROOF. The invariant of the block, `State.Inv`: what its checks say, which updates of the state keep it, that every single
transaction can be taken and keeps it, and that every operation and every step ends idle and inside it.
-/

namespace Sys2Proof.Machine

/-! ### What the checks say -/

theorem TxJob.wf_iff {p : Params} {job : TxJob} :
    job.wf p = true ↔
      1 ≤ job.len.toNat ∧ job.len ≤ p.maxPacketLen ∧ job.paddr.toNat + job.len.toNat ≤ pmemSize ∧
        (job.lenCode = 0x1B85#16 ∨ job.lenCode = 0x0000#16 ∨ job.lenCode = 0x0035#16) := by
  simp only [TxJob.wf, Bool.and_eq_true, decide_eq_true_eq, and_assoc]

section
variable {p : Params} {lc : Lc}

@[simp] theorem Sequencer.wf_configure {i : Nat} :
    (Sequencer.configure i).wf p lc = true ↔
      i < p.cfgTable.length ∧ (lc = .resetDone ∨ lc = .configuring ∨ lc = .ready) := by
  simp [Sequencer.wf]

@[simp] theorem Sequencer.wf_verify : Sequencer.verify.wf p lc = true ↔ lc = .configuring ∨ lc = .ready := by
  simp [Sequencer.wf]

@[simp] theorem Sequencer.wf_property {group offset : Byte} {bytes : List Byte} :
    (Sequencer.property group offset bytes).wf p lc = true ↔ bytes.length ≤ 255 ∧ lc = .ready := by
  simp [Sequencer.wf]

@[simp] theorem Sequencer.wf_dataRateRead {bps : BitVec 16} :
    (Sequencer.dataRateRead bps).wf p lc = true ↔ lc = .ready := by
  simp [Sequencer.wf]

@[simp] theorem Sequencer.wf_dataRateWrite {bps : BitVec 16} {r : BitVec 32} :
    (Sequencer.dataRateWrite bps r).wf p lc = true ↔
      dataRateFits (dataRateValue p bps r) = true ∧ lc = .ready := by
  simp [Sequencer.wf]

@[simp] theorem Sequencer.wf_txFirst {job : TxJob} :
    (Sequencer.txFirst job).wf p lc = true ↔ job.wf p = true ∧ lc = .ready := by
  simp [Sequencer.wf]

@[simp] theorem Sequencer.wf_txPoll {job : TxJob} {sent polls : Nat} :
    (Sequencer.txPoll job sent polls).wf p lc = true ↔
      job.wf p = true ∧ 0 < sent ∧ sent < job.len.toNat ∧ polls < p.pollLimit ∧ lc = .ready := by
  simp [Sequencer.wf, and_assoc]

@[simp] theorem Sequencer.wf_txChunk {job : TxJob} {sent : Nat} :
    (Sequencer.txChunk job sent).wf p lc = true ↔
      job.wf p = true ∧ 0 < sent ∧ sent < job.len.toNat ∧ lc = .ready := by
  simp [Sequencer.wf, and_assoc]

@[simp] theorem Sequencer.wf_txStart {job : TxJob} :
    (Sequencer.txStart job).wf p lc = true ↔ job.wf p = true ∧ lc = .ready := by
  simp [Sequencer.wf]

@[simp] theorem Transaction.wf_writeFifo {bytes : List Byte} :
    (Transaction.writeFifo bytes).wf p = true ↔ 1 ≤ bytes.length ∧ bytes.length ≤ p.fifoCapacity := by
  simp [Transaction.wf]

/-- A property write of at most 255 bytes counts them (20_memory.md rule R53). -/
theorem propertyWrite_wf {group offset : Byte} {bytes : List Byte} (h : bytes.length ≤ 255) :
    (propertyWrite group offset bytes).wf p = true := by
  simp only [propertyWrite, Transaction.wf, BitVec.toNat_ofNat, decide_eq_true_eq]
  omega

end

/-- The write of a table entry counts its bytes, since the configuration's table is well-formed (rule R51). -/
theorem entryWrite_wf (c : Config) {e : CfgEntry} (he : e ∈ c.params.cfgTable) :
    (entryWrite e).wf c.params = true := c.entry_wf he

/-- Whatever the transport answers, a transaction of rule R53's shape makes an event of rule R53's shape. -/
theorem event_wf_of_answerTo {p : Params} {tx : Transaction} (s : State) (htx : tx.wf p = true) :
    Event.wf p ⟨tx, s.answerTo tx⟩ = true := by
  obtain hfail | ⟨bytes, hok, hlen⟩ := answerTo_cases s tx
  · simp [Event.wf, htx, hfail]
  · simp [Event.wf, htx, hok, hlen]

/-! ### Updates that keep the invariant -/

namespace State.Inv

variable {s : State}

theorem transact (h : s.Inv) {tx : Transaction} (htx : tx.wf s.cfg.params = true) : (s.transact tx).Inv where
  channel := h.channel
  memory := h.memory
  sequencer := h.sequencer
  errIndex := h.errIndex
  trace e he := by
    obtain hold | rfl : e ∈ s.trace ∨ e = ⟨tx, s.answerTo tx⟩ := by simpa using he
    · exact h.trace e hold
    · exact event_wf_of_answerTo s htx

theorem setSeq (h : s.Inv) {v : Sequencer} (hv : v.wf s.cfg.params s.lc = true) : (s.setSeq v).Inv :=
  ⟨h.channel, h.memory, hv, h.errIndex, h.trace⟩

theorem setProgram (h : s.Inv) (v : List Word) : (s.setProgram v).Inv :=
  ⟨h.channel, h.memory, h.sequencer, h.errIndex, h.trace⟩

theorem setDataRate (h : s.Inv) (v : BitVec 16) : (s.setDataRate v).Inv :=
  ⟨h.channel, h.memory, h.sequencer, h.errIndex, h.trace⟩

theorem setChannel (h : s.Inv) {v : BitVec 8} (hv : v ≤ s.cfg.params.channelLimitUpper) : (s.setChannel v).Inv :=
  ⟨hv, h.memory, h.sequencer, h.errIndex, h.trace⟩

/-- Ending an operation keeps the invariant in every lifecycle state, since an idle block is in its ranges in each; the
index must be one that `ERR_INDEX` may hold (rule R27). -/
theorem setLc_finish (h : s.Inv) (lc : Lc) {st : Status} {info : BitVec 16}
    (hinfo : info ≠ 0#16 → st = .transportError ∧ info.toNat < s.cfg.params.cfgTable.length) :
    ((s.setLc lc).finish st info).Inv :=
  ⟨h.channel, h.memory, rfl, hinfo, h.trace⟩

theorem setLc_complete (h : s.Inv) (lc : Lc) : (s.setLc lc).complete.Inv := h.setLc_finish lc fun hne => absurd rfl hne

theorem raiseFatal (h : s.Inv) (st : Status) : (s.raiseFatal st).Inv := h.setLc_finish .halted fun hne => absurd rfl hne

theorem complete (h : s.Inv) : s.complete.Inv := h.setLc_complete s.lc

theorem raise (h : s.Inv) (st : Status) : (s.raise st).Inv := h.setLc_finish s.lc fun hne => absurd rfl hne

end State.Inv

/-! ### Every transaction keeps the invariant, position by position -/

section
variable {s : State}

theorem advanceReset_inv (h : s.Inv) : (advanceReset s).Inv := by
  have ht : (s.transact .reset).Inv := h.transact rfl
  obtain ⟨_, heq⟩ | ⟨_, _, heq⟩ := advanceReset_cases s <;> rw [heq]
  · exact ht.raiseFatal _
  · exact ht.setLc_complete _

theorem loadFrom_inv {i : Nat} (h : s.Inv) (hlc : s.lc = .resetDone ∨ s.lc = .configuring ∨ s.lc = .ready) :
    (loadFrom i s).Inv := by
  obtain ⟨hi, heq⟩ | ⟨_, heq⟩ := loadFrom_cases i s <;> rw [heq]
  · exact h.setSeq (Sequencer.wf_configure.mpr ⟨hi, hlc⟩)
  · exact h.setLc_complete _

/-- The index of a table entry is its own value in the 16 bits of `ERR_INDEX` (rules R8, R27). -/
theorem toNat_entryIndex (c : Config) {i : Nat} (hi : i < c.params.cfgTable.length) :
    (BitVec.ofNat 16 i).toNat = i := by
  have hlen := c.cfgTable_length
  rw [BitVec.toNat_ofNat]
  omega

theorem advanceConfigure_inv {i : Nat} (h : s.Inv)
    (hlc : s.lc = .resetDone ∨ s.lc = .configuring ∨ s.lc = .ready) : (advanceConfigure i s).Inv := by
  obtain ⟨_, heq⟩ | ⟨e, he, hanswer⟩ := advanceConfigure_cases i s
  · rw [heq]; exact h.setLc_complete _
  · have ht : (s.transact (entryWrite e)).Inv := h.transact (entryWrite_wf s.cfg (List.mem_of_getElem? he))
    obtain ⟨hi, _⟩ := List.getElem?_eq_some_iff.mp he
    obtain ⟨_, heq⟩ | ⟨_, _, heq⟩ := hanswer <;> rw [heq]
    · exact ht.setLc_finish _ fun _ => ⟨rfl, by rw [toNat_entryIndex s.cfg hi]; exact hi⟩
    · exact loadFrom_inv ht hlc

theorem advanceVerify_inv (h : s.Inv) : (advanceVerify s).Inv := by
  have ht : (s.transact .readPartInfo).Inv := h.transact rfl
  obtain ⟨_, heq⟩ | ⟨_, _, ⟨_, heq⟩ | ⟨_, heq⟩⟩ := advanceVerify_cases s <;> rw [heq]
  · exact ht.raiseFatal _
  · exact ht.setLc_complete _
  · exact ht.raiseFatal _

theorem advanceProperty_inv {group offset : Byte} {bytes : List Byte} (h : s.Inv) (hlen : bytes.length ≤ 255) :
    (advanceProperty group offset bytes s).Inv := by
  have ht : (s.transact (propertyWrite group offset bytes)).Inv := h.transact (propertyWrite_wf hlen)
  obtain ⟨_, heq⟩ | ⟨_, _, heq⟩ := advanceProperty_cases group offset bytes s <;> rw [heq]
  · exact ht.raise _
  · exact ht.complete

theorem advanceDataRateRead_inv {bps : BitVec 16} (h : s.Inv) (hlc : s.lc = .ready) :
    (advanceDataRateRead bps s).Inv := by
  have ht : (s.transact (ncoRead s.cfg.params)).Inv := h.transact rfl
  obtain ⟨_, heq⟩ | ⟨_, _, ⟨hfits, heq⟩ | ⟨_, heq⟩⟩ := advanceDataRateRead_cases bps s <;> rw [heq]
  · exact ht.raise _
  · exact ht.setSeq (Sequencer.wf_dataRateWrite.mpr ⟨hfits, hlc⟩)
  · exact ht.raise _

@[simp] theorem dataRateBytes_length (dr : Nat) : (dataRateBytes dr).length = 3 := rfl

theorem advanceDataRateWrite_inv {bps : BitVec 16} {r : BitVec 32} (h : s.Inv) :
    (advanceDataRateWrite bps r s).Inv := by
  have ht : (s.transact (dataRateWrite s.cfg.params bps r)).Inv := h.transact (propertyWrite_wf (by simp))
  obtain ⟨_, heq⟩ | ⟨_, _, heq⟩ := advanceDataRateWrite_cases bps r s <;> rw [heq]
  · exact ht.raise _
  · exact (ht.setDataRate bps).complete

theorem transmitLoop_inv {job : TxJob} {sent : Nat} (h : s.Inv) (hjob : job.wf s.cfg.params = true)
    (hlc : s.lc = .ready) (hsent : 0 < sent) : (transmitLoop job sent s).Inv := by
  obtain ⟨hlt, heq⟩ | ⟨_, heq⟩ := transmitLoop_cases job sent s <;> rw [heq]
  · exact h.setSeq (Sequencer.wf_txPoll.mpr ⟨hjob, hsent, hlt, s.cfg.pollLimit_pos, hlc⟩)
  · exact h.setSeq (Sequencer.wf_txStart.mpr ⟨hjob, hlc⟩)

/-- A FIFO write inside the payload finds its bytes in PMEM: it raises no fault (rules R12, R202). -/
theorem advanceWrite_inv {job : TxJob} {sent n : Nat} (h : s.Inv) (hjob : job.wf s.cfg.params = true)
    (hlc : s.lc = .ready) (hpos : 1 ≤ n) (hcap : n ≤ s.cfg.params.fifoCapacity) (hend : sent + n ≤ job.len.toNat) :
    ∃ t, advanceWrite job sent n s = .next t ∧ t.Inv := by
  obtain ⟨_, _, hbound, _⟩ := TxJob.wf_iff.mp hjob
  have ht : (s.transact (.writeFifo (s.pmem.bytes (job.paddr.toNat + sent) n))).Inv :=
    h.transact (Transaction.wf_writeFifo.mpr (by simp [hpos, hcap]))
  obtain ⟨hout, _⟩ | ⟨_, ⟨_, heq⟩ | ⟨_, _, heq⟩⟩ := advanceWrite_cases job sent n s
  · omega
  · exact ⟨_, heq, ht.raise _⟩
  · exact ⟨_, heq, transmitLoop_inv ht hjob hlc (by omega)⟩

/-- The initial write has a byte, fits the FIFO and stays inside the payload (rule R203). -/
theorem firstWriteSize_bounds (c : Config) {len : Nat} (hlen : 1 ≤ len) :
    1 ≤ firstWriteSize c.params len ∧ firstWriteSize c.params len ≤ c.params.fifoCapacity ∧
      firstWriteSize c.params len ≤ len := by
  have hcap := c.fifoCapacity_pos
  unfold firstWriteSize
  omega

/-- So does the write of a chunk (rule R205). -/
theorem chunkWriteSize_bounds (c : Config) {len sent : Nat} (hsent : sent < len) :
    1 ≤ chunkWriteSize c.params len sent ∧ chunkWriteSize c.params len sent ≤ c.params.fifoCapacity ∧
      sent + chunkWriteSize c.params len sent ≤ len := by
  have hpos := c.chunkSize_pos
  have hcap := c.chunkSize_le
  unfold chunkWriteSize
  omega

theorem advancePoll_inv {job : TxJob} {sent polls : Nat} (h : s.Inv) (hjob : job.wf s.cfg.params = true)
    (hpos : 0 < sent) (hsent : sent < job.len.toNat) (hlc : s.lc = .ready) : (advancePoll job sent polls s).Inv := by
  have ht : (s.transact .readFifoFreeSpace).Inv := h.transact rfl
  obtain ⟨_, heq⟩ | ⟨_, _, ⟨_, heq⟩ | ⟨_, _, heq⟩ | ⟨_, hpolls, heq⟩⟩ := advancePoll_cases job sent polls s <;> rw [heq]
  · exact ht.raise _
  · exact ht.setSeq (Sequencer.wf_txChunk.mpr ⟨hjob, hpos, hsent, hlc⟩)
  · exact ht.raise _
  · exact ht.setSeq (Sequencer.wf_txPoll.mpr ⟨hjob, hpos, hsent, hpolls, hlc⟩)

theorem advanceStart_inv {job : TxJob} (h : s.Inv) : (advanceStart job s).Inv := by
  have ht : (s.transact (startTransmit job s)).Inv := h.transact rfl
  obtain ⟨_, heq⟩ | ⟨_, _, heq⟩ := advanceStart_cases job s <;> rw [heq]
  · exact ht.raise _
  · exact ht.complete

/-- From every state of the invariant the running operation can take its next transaction, and is in the invariant after
it. -/
theorem advance_inv (h : s.Inv) : ∃ t, advance s = .next t ∧ t.Inv := by
  have hseq := h.sequencer
  unfold advance
  cases hs : s.seq with
  | idle => exact ⟨s, rfl, h⟩
  | reset => exact ⟨_, rfl, advanceReset_inv h⟩
  | configure i =>
    obtain ⟨_, hlc⟩ := Sequencer.wf_configure.mp (hs ▸ hseq)
    exact ⟨_, rfl, advanceConfigure_inv h hlc⟩
  | verify => exact ⟨_, rfl, advanceVerify_inv h⟩
  | property group offset bytes =>
    obtain ⟨hlen, _⟩ := Sequencer.wf_property.mp (hs ▸ hseq)
    exact ⟨_, rfl, advanceProperty_inv h hlen⟩
  | dataRateRead bps =>
    exact ⟨_, rfl, advanceDataRateRead_inv h (Sequencer.wf_dataRateRead.mp (hs ▸ hseq))⟩
  | dataRateWrite bps r => exact ⟨_, rfl, advanceDataRateWrite_inv h⟩
  | txFirst job =>
    obtain ⟨hjob, hlc⟩ := Sequencer.wf_txFirst.mp (hs ▸ hseq)
    obtain ⟨hlen, _⟩ := TxJob.wf_iff.mp hjob
    obtain ⟨hpos, hcap, hend⟩ := firstWriteSize_bounds s.cfg hlen
    exact advanceWrite_inv h hjob hlc hpos hcap (by omega)
  | txPoll job sent polls =>
    obtain ⟨hjob, hpos, hsent, _, hlc⟩ := Sequencer.wf_txPoll.mp (hs ▸ hseq)
    exact ⟨_, rfl, advancePoll_inv h hjob hpos hsent hlc⟩
  | txChunk job sent =>
    obtain ⟨hjob, _, hsent, hlc⟩ := Sequencer.wf_txChunk.mp (hs ▸ hseq)
    obtain ⟨hpos, hcap, hend⟩ := chunkWriteSize_bounds s.cfg hsent
    exact advanceWrite_inv h hjob hlc hpos hcap hend
  | txStart job => exact ⟨_, rfl, advanceStart_inv h⟩

/-! ### A run to the end -/

/-- A running operation still has a transaction to take. -/
theorem idle_of_remaining_eq_zero (h : remaining s = 0) : s.seq = .idle := by
  cases hs : s.seq <;> simp [remaining, hs, transmitRest] at h ⊢

/-- Where every transaction can be taken and keeps `P`, enough fuel brings the operation to its end inside `P`: each
transaction takes one from `remaining`. -/
theorem settle_ends {P : State → Prop} (hstep : ∀ s, s.seq ≠ .idle → P s → ∃ t, advance s = .next t ∧ P t) :
    ∀ (n : Nat) (s : State), P s → remaining s ≤ n → ∃ t, settle n s = .next t ∧ t.seq = .idle ∧ P t := by
  intro n
  induction n with
  | zero =>
    intro s hp hn
    exact ⟨s, rfl, idle_of_remaining_eq_zero (Nat.le_zero.mp hn), hp⟩
  | succ n ih =>
    intro s hp hn
    by_cases hi : s.seq = .idle
    · exact ⟨s, settle_of_idle hi, hi, hp⟩
    · obtain ⟨t, ha, ht⟩ := hstep s hi hp
      have hlt := advance_remaining hi ha
      rw [settle_advance hi ha]
      exact ih t ht (by omega)

theorem runToEnd_ends {P : State → Prop} (hstep : ∀ s, s.seq ≠ .idle → P s → ∃ t, advance s = .next t ∧ P t)
    (hp : P s) : ∃ t, runToEnd s = .next t ∧ t.seq = .idle ∧ P t :=
  settle_ends hstep (remaining s) s hp le_rfl

/-- An operation run with enough fuel has ended: `remaining` is not used up before. -/
theorem settle_idle : ∀ (n : Nat) (s t : State), remaining s ≤ n → settle n s = .next t → t.seq = .idle := by
  intro n
  induction n with
  | zero =>
    intro s t hn h
    cases h
    exact idle_of_remaining_eq_zero (Nat.le_zero.mp hn)
  | succ n ih =>
    intro s t hn h
    by_cases hi : s.seq = .idle
    · rw [settle_of_idle hi] at h; cases h; exact hi
    · rw [settle_of_busy hi] at h
      cases ha : advance s with
      | next u =>
        have hlt := advance_remaining hi ha
        rw [ha] at h
        exact ih u t (by omega) h
      | fault r => rw [ha] at h; cases h
      | refused r => rw [ha] at h; cases h

theorem runToEnd_idle {t : State} (h : runToEnd s = .next t) : t.seq = .idle := settle_idle _ s t le_rfl h

theorem runToEnd_keeps {P : State → Prop} (hstep : ∀ s t, s.seq ≠ .idle → P s → advance s = .next t → P t)
    {t : State} (hp : P s) (h : runToEnd s = .next t) : P t :=
  settle_keeps hstep _ s t hp h

theorem runToEnd_inv (h : s.Inv) : ∃ t, runToEnd s = .next t ∧ t.seq = .idle ∧ t.Inv :=
  runToEnd_ends (fun _ _ hu => advance_inv hu) h

/-! ### The start of every operation keeps the invariant -/

theorem clampChannel_le (limit channel : BitVec 8) : clampChannel limit channel ≤ limit := by
  unfold clampChannel
  split
  · assumption
  · exact BitVec.le_refl limit

@[simp] theorem frequencyPayload_length (p : Params) (freqHz : BitVec 32) (adj : BitVec 24) :
    (frequencyPayload p freqHz adj).length = 5 := rfl

theorem startApplyFrequency_inv (freqHz : BitVec 32) (adj : BitVec 24) (h : s.Inv) (hlc : s.lc = .ready) :
    (startApplyFrequency freqHz adj s).Inv := by
  obtain ⟨_, heq⟩ | ⟨_, _, heq⟩ := startApplyFrequency_cases freqHz adj s <;> rw [heq]
  · exact h.raise _
  · exact h.setSeq (Sequencer.wf_property.mpr ⟨by simp, hlc⟩)

theorem startSetModulation_inv (mode : BitVec 8) (h : s.Inv) (hlc : s.lc = .ready) :
    (startSetModulation mode s).Inv := by
  obtain ⟨_, heq⟩ | ⟨_, _, heq⟩ := startSetModulation_cases mode s <;> rw [heq]
  · exact h.raise _
  · exact h.setSeq (Sequencer.wf_property.mpr ⟨by simp, hlc⟩)

theorem startAdjustCrystal_inv (adj : BitVec 8) (h : s.Inv) (hlc : s.lc = .ready) :
    (startAdjustCrystal adj s).Inv := by
  obtain ⟨_, heq⟩ | ⟨_, _, heq⟩ := startAdjustCrystal_cases adj s <;> rw [heq]
  · exact h.raise _
  · exact h.setSeq (Sequencer.wf_property.mpr ⟨by simp, hlc⟩)

theorem framingCode_cases (f : Framing) :
    framingCode f = 0x1B85#16 ∨ framingCode f = 0x0000#16 ∨ framingCode f = 0x0035#16 := by
  cases f with
  | repeat200 => exact .inl rfl
  | repeat1000 => exact .inr (.inl rfl)
  | single => exact .inr (.inr rfl)

/-- The operands that pass the checks of rule R202 make a well-formed job. -/
theorem startTransmitOperation_inv (paddr : BitVec 24) (len framecount : BitVec 16) (h : s.Inv)
    (hlc : s.lc = .ready) : (startTransmitOperation paddr len framecount s).Inv := by
  obtain ⟨_, heq⟩ | ⟨_, _, heq⟩ | ⟨_, _, _, heq⟩ | ⟨f, hlen, hmax, _, ⟨_, heq⟩ | ⟨hbound, heq⟩⟩ :=
    startTransmitOperation_cases paddr len framecount s <;> rw [heq]
  · exact h.complete
  · exact h.raise _
  · exact h.raise _
  · exact h.raise _
  · have hjob : TxJob.wf s.cfg.params ⟨paddr, len, framingCode f⟩ = true :=
      TxJob.wf_iff.mpr ⟨by bv_omega, BitVec.not_lt.mp hmax, hbound, framingCode_cases f⟩
    exact h.setSeq (Sequencer.wf_txFirst.mpr ⟨hjob, hlc⟩)

/-- An operation that its guard lets run starts inside the invariant. -/
theorem startOf_inv {i : Instr} (h : s.Inv) (hguard : lifecycleGuard (guardClassOf i) s.lc = none) :
    (startOf i s).Inv := by
  cases i with
  | reset => exact h.setSeq rfl
  | configure => exact loadFrom_inv h (lifecycleGuard_configure_iff.mp hguard)
  | verify => exact h.setSeq (Sequencer.wf_verify.mpr (lifecycleGuard_verify_iff.mp hguard))
  | setFrequency channel => exact (h.setChannel (clampChannel_le _ channel)).complete
  | applyFrequency freqHz adj => exact startApplyFrequency_inv freqHz adj h (lifecycleGuard_needsReady_iff.mp hguard)
  | setDataRate bps => exact h.setSeq (Sequencer.wf_dataRateRead.mpr (lifecycleGuard_needsReady_iff.mp hguard))
  | setModulation mode => exact startSetModulation_inv mode h (lifecycleGuard_needsReady_iff.mp hguard)
  | setPower level =>
    exact h.setSeq (Sequencer.wf_property.mpr ⟨by simp, lifecycleGuard_needsReady_iff.mp hguard⟩)
  | adjustCrystal adj => exact startAdjustCrystal_inv adj h (lifecycleGuard_needsReady_iff.mp hguard)
  | transmit paddr len framecount =>
    exact startTransmitOperation_inv paddr len framecount h (lifecycleGuard_needsReady_iff.mp hguard)

/-! ### Every operation and every step -/

theorem exec_inv (i : Instr) (h : s.Inv) (hidle : s.seq = .idle) : ∃ t, exec i s = .next t ∧ t.seq = .idle ∧ t.Inv := by
  cases hguard : lifecycleGuard (guardClassOf i) s.lc with
  | some st => exact ⟨_, exec_guarded hidle hguard, rfl, h.raise st⟩
  | none =>
    rw [exec_runs hidle hguard]
    exact runToEnd_inv (startOf_inv h hguard)

theorem step_of_busy (hbusy : s.seq ≠ .idle) : step s = runToEnd s := by
  unfold step
  split
  · rename_i hidle; exact absurd hidle hbusy
  · rfl

theorem step_of_no_word (hidle : s.seq = .idle) (hprog : s.program = []) : step s = .next s := by
  simp [step, hidle, State.fetch, hprog]

theorem step_of_op {w : Word} {rest : List Word} {i : Instr} (hidle : s.seq = .idle) (hprog : s.program = w :: rest)
    (hdecode : decode w = .op i) : step s = exec i (s.setProgram rest) := by
  simp [step, hidle, State.fetch, hprog, hdecode]

theorem step_of_illegal {w : Word} {rest : List Word} {why : Illegal} (hidle : s.seq = .idle)
    (hprog : s.program = w :: rest) (hdecode : decode w = .illegal why) :
    step s = .next ((s.setProgram rest).raise .illegalOperation) := by
  simp [step, hidle, State.fetch, hprog, hdecode]

end

/-- Settles O51: a running operation goes on to its end, and an idle block's word runs from a start inside the invariant; in
both no transaction can fault (`advance_inv`) and each takes one from `remaining` (`settle_ends`). -/
theorem stepNeverStops : Obligations.StepNeverStops := by
  intro s h
  by_cases hidle : s.seq = .idle
  · cases hprog : s.program with
    | nil => exact ⟨s, step_of_no_word hidle hprog, hidle, h⟩
    | cons w rest =>
      cases hdecode : decode w with
      | op i =>
        rw [step_of_op hidle hprog hdecode]
        exact exec_inv i (h.setProgram rest) hidle
      | illegal why => exact ⟨_, step_of_illegal hidle hprog hdecode, rfl, (h.setProgram rest).raise _⟩
  · rw [step_of_busy hidle]
    exact runToEnd_inv h

end Sys2Proof.Machine
end

section
/-!
PROOF. `ERR_INDEX` after every operation: outside CONFIGURE no table entry ever waits for its write and every end writes 0;
inside it the loader's index counts the writes already in the trace.
-/

namespace Sys2Proof.Machine

/-! ### Operations other than CONFIGURE -/

/-- No table entry waits for its write, and the index is 0 where the operation has ended. -/
structure OutsideTable (u : State) : Prop where
  noEntry : ∀ i, u.seq ≠ .configure i
  errIndex : u.seq = .idle → u.errIndex = 0#16

theorem outsideTable_of_ended {u : State} (hidle : u.seq = .idle) (herr : u.errIndex = 0#16) : OutsideTable u :=
  ⟨fun _ => by simp [hidle], fun _ => herr⟩

theorem outsideTable_setSeq {u : State} {v : Sequencer} (hentry : ∀ i, v ≠ .configure i) (hbusy : v ≠ .idle) :
    OutsideTable (u.setSeq v) :=
  ⟨hentry, fun hidle => absurd hidle hbusy⟩

theorem transmitLoop_outsideTable (job : TxJob) (sent : Nat) (u : State) : OutsideTable (transmitLoop job sent u) := by
  obtain ⟨_, heq⟩ | ⟨_, heq⟩ := transmitLoop_cases job sent u <;> rw [heq] <;> exact outsideTable_setSeq nofun nofun

theorem advanceWrite_outsideTable {job : TxJob} {sent n : Nat} {u v : State}
    (ha : advanceWrite job sent n u = .next v) : OutsideTable v := by
  obtain ⟨_, heq⟩ | ⟨_, ⟨_, heq⟩ | ⟨_, _, heq⟩⟩ := advanceWrite_cases job sent n u <;> rw [heq] at ha <;> cases ha
  · exact outsideTable_of_ended rfl rfl
  · exact transmitLoop_outsideTable job (sent + n) _

/-- A transaction outside the table leads to none of its entries, and an operation it ends has the index 0. -/
theorem advance_outsideTable {u v : State} (h : OutsideTable u) (ha : advance u = .next v) : OutsideTable v := by
  cases hs : u.seq with
  | configure i => exact absurd hs (h.noEntry i)
  | txFirst job => simp only [advance, hs] at ha; exact advanceWrite_outsideTable ha
  | txChunk job sent => simp only [advance, hs] at ha; exact advanceWrite_outsideTable ha
  | idle => simp only [advance, hs] at ha; cases ha; exact h
  | reset =>
    simp only [advance, hs] at ha; cases ha
    obtain ⟨_, heq⟩ | ⟨_, _, heq⟩ := advanceReset_cases u <;> rw [heq] <;> exact outsideTable_of_ended rfl rfl
  | verify =>
    simp only [advance, hs] at ha; cases ha
    obtain ⟨_, heq⟩ | ⟨_, _, ⟨_, heq⟩ | ⟨_, heq⟩⟩ := advanceVerify_cases u <;> rw [heq] <;>
      exact outsideTable_of_ended rfl rfl
  | property group offset bytes =>
    simp only [advance, hs] at ha; cases ha
    obtain ⟨_, heq⟩ | ⟨_, _, heq⟩ := advanceProperty_cases group offset bytes u <;> rw [heq] <;>
      exact outsideTable_of_ended rfl rfl
  | dataRateRead bps =>
    simp only [advance, hs] at ha; cases ha
    obtain ⟨_, heq⟩ | ⟨_, _, ⟨_, heq⟩ | ⟨_, heq⟩⟩ := advanceDataRateRead_cases bps u <;> rw [heq]
    · exact outsideTable_of_ended rfl rfl
    · exact outsideTable_setSeq nofun nofun
    · exact outsideTable_of_ended rfl rfl
  | dataRateWrite bps r =>
    simp only [advance, hs] at ha; cases ha
    obtain ⟨_, heq⟩ | ⟨_, _, heq⟩ := advanceDataRateWrite_cases bps r u <;> rw [heq] <;>
      exact outsideTable_of_ended rfl rfl
  | txPoll job sent polls =>
    simp only [advance, hs] at ha; cases ha
    obtain ⟨_, heq⟩ | ⟨_, _, ⟨_, heq⟩ | ⟨_, _, heq⟩ | ⟨_, _, heq⟩⟩ := advancePoll_cases job sent polls u <;> rw [heq]
    · exact outsideTable_of_ended rfl rfl
    · exact outsideTable_setSeq nofun nofun
    · exact outsideTable_of_ended rfl rfl
    · exact outsideTable_setSeq nofun nofun
  | txStart job =>
    simp only [advance, hs] at ha; cases ha
    obtain ⟨_, heq⟩ | ⟨_, _, heq⟩ := advanceStart_cases job u <;> rw [heq] <;> exact outsideTable_of_ended rfl rfl

theorem startOf_outsideTable {i : Instr} (hi : i ≠ .configure) (s : State) : OutsideTable (startOf i s) := by
  cases i with
  | configure => exact absurd rfl hi
  | reset => exact outsideTable_setSeq nofun nofun
  | verify => exact outsideTable_setSeq nofun nofun
  | setFrequency channel => exact outsideTable_of_ended rfl rfl
  | setDataRate bps => exact outsideTable_setSeq nofun nofun
  | setPower level => exact outsideTable_setSeq nofun nofun
  | applyFrequency freqHz adj =>
    obtain ⟨_, heq⟩ | ⟨_, _, heq⟩ := startApplyFrequency_cases freqHz adj s <;> rw [startOf, heq]
    · exact outsideTable_of_ended rfl rfl
    · exact outsideTable_setSeq nofun nofun
  | setModulation mode =>
    obtain ⟨_, heq⟩ | ⟨_, _, heq⟩ := startSetModulation_cases mode s <;> rw [startOf, heq]
    · exact outsideTable_of_ended rfl rfl
    · exact outsideTable_setSeq nofun nofun
  | adjustCrystal adj =>
    obtain ⟨_, heq⟩ | ⟨_, _, heq⟩ := startAdjustCrystal_cases adj s <;> rw [startOf, heq]
    · exact outsideTable_of_ended rfl rfl
    · exact outsideTable_setSeq nofun nofun
  | transmit paddr len framecount =>
    obtain ⟨_, heq⟩ | ⟨_, _, heq⟩ | ⟨_, _, _, heq⟩ | ⟨_, _, _, _, ⟨_, heq⟩ | ⟨_, heq⟩⟩ :=
      startTransmitOperation_cases paddr len framecount s <;> rw [startOf, heq]
    · exact outsideTable_of_ended rfl rfl
    · exact outsideTable_of_ended rfl rfl
    · exact outsideTable_of_ended rfl rfl
    · exact outsideTable_of_ended rfl rfl
    · exact outsideTable_setSeq nofun nofun

theorem exec_errIndex_eq_zero {i : Instr} {s t : State} (hi : i ≠ .configure) (h : exec i s = .next t) :
    t.errIndex = 0#16 := by
  obtain ⟨_, ⟨st, _, rfl⟩ | ⟨_, hrun⟩⟩ := exec_cases h
  · rfl
  · have hout : OutsideTable t := runToEnd_keeps (fun _ _ _ => advance_outsideTable) (startOf_outsideTable hi s) hrun
    exact hout.errIndex (runToEnd_idle hrun)

/-! ### CONFIGURE -/

/-- `t` names the table entry whose write, the last of its trace, failed; the entries before it were written since `s`. -/
def NamesFailedEntry (s t : State) : Prop :=
  ∃ e, s.cfg.params.cfgTable[t.errIndex.toNat]? = some e ∧
    t.trace.getLast? = some ⟨tableWrite e, .fail⟩ ∧ t.trace.length = s.trace.length + t.errIndex.toNat + 1

/-- How far a CONFIGURE that began in `s` has come in `u` (40_lifecycle.md rules R103, R106). -/
inductive LoaderAt (s u : State) : Prop where
  /-- The entries before `i` are written. -/
  | loading (i : Nat) (hseq : u.seq = .configure i) (hcfg : u.cfg = s.cfg)
      (htrace : u.trace.length = s.trace.length + i)
  /-- The table is exhausted. -/
  | loaded (hidle : u.seq = .idle) (hstatus : u.status = .ok) (herr : u.errIndex = 0#16)
  /-- The write of an entry failed. -/
  | failed (hidle : u.seq = .idle) (hstatus : u.status = .transportError) (hentry : NamesFailedEntry s u)

theorem loaderAt_loadFrom {s u : State} {i : Nat} (hcfg : u.cfg = s.cfg) (htrace : u.trace.length = s.trace.length + i) :
    LoaderAt s (loadFrom i u) := by
  obtain ⟨_, heq⟩ | ⟨_, heq⟩ := loadFrom_cases i u <;> rw [heq]
  · exact .loading i rfl hcfg htrace
  · exact .loaded rfl rfl rfl

/-- The loader's transaction is the write that the statements name. -/
theorem tableWrite_eq_entryWrite (e : CfgEntry) : tableWrite e = entryWrite e := rfl

theorem loaderAt_advanceConfigure {s u : State} {i : Nat} (hcfg : u.cfg = s.cfg)
    (htrace : u.trace.length = s.trace.length + i) : LoaderAt s (advanceConfigure i u) := by
  obtain ⟨_, heq⟩ | ⟨e, he, ⟨hfail, heq⟩ | ⟨_, _, heq⟩⟩ := advanceConfigure_cases i u <;> rw [heq]
  · exact .loaded rfl rfl rfl
  · obtain ⟨hi, _⟩ := List.getElem?_eq_some_iff.mp he
    have hindex : (BitVec.ofNat 16 i).toNat = i := toNat_entryIndex u.cfg hi
    refine .failed rfl rfl ⟨e, ?_, ?_, ?_⟩
    · simpa only [State.raiseAt_errIndex, hindex, ← hcfg] using he
    · simp [tableWrite_eq_entryWrite, hfail]
    · simp only [State.raiseAt_errIndex, State.raiseAt_trace, State.setLc_trace, State.transact_trace,
        List.length_append, List.length_singleton, hindex, htrace]
  · exact loaderAt_loadFrom hcfg (by simp [htrace, Nat.add_assoc])

/-- The writes in the trace keep up with the loader's index until the operation ends. -/
theorem loaderAt_advance {s u v : State} (hbusy : u.seq ≠ .idle) (h : LoaderAt s u) (ha : advance u = .next v) :
    LoaderAt s v := by
  cases h with
  | loading i hseq hcfg htrace =>
    simp only [advance, hseq] at ha
    cases ha
    exact loaderAt_advanceConfigure hcfg htrace
  | loaded hidle _ _ => exact absurd hidle hbusy
  | failed hidle _ _ => exact absurd hidle hbusy

/-- A CONFIGURE ends with the index 0, or with a transport failure and the index of the entry whose write failed. -/
theorem exec_configure_errIndex {s t : State} (h : exec .configure s = .next t) :
    (t.status ≠ .transportError ∧ t.errIndex = 0#16) ∨ (t.status = .transportError ∧ NamesFailedEntry s t) := by
  obtain ⟨_, ⟨st, hguard, rfl⟩ | ⟨_, hrun⟩⟩ := exec_cases h
  · refine .inl ⟨?_, rfl⟩
    obtain hnone | hnotReady | hhalted := lifecycleGuard_cases (guardClassOf .configure) s.lc
    · simp [hnone] at hguard
    · obtain rfl : Status.notReady = st := by simpa [hnotReady] using hguard
      simp
    · obtain rfl : Status.halted = st := by simpa [hhalted] using hguard
      simp
  · have hload : LoaderAt s t := runToEnd_keeps (fun _ _ => loaderAt_advance) (loaderAt_loadFrom rfl rfl) hrun
    cases hload with
    | loading i hseq _ _ => rw [runToEnd_idle hrun] at hseq; cases hseq
    | loaded _ hstatus herr => exact .inl ⟨by simp [hstatus], herr⟩
    | failed _ hstatus hentry => exact .inr ⟨hstatus, hentry⟩

/-- Settles O43: `OutsideTable` for every operation but CONFIGURE, `LoaderAt` for CONFIGURE. -/
theorem errIndexNamesTheFailingEntry : Obligations.ErrIndexNamesTheFailingEntry := by
  intro i s t h
  by_cases hi : i = .configure
  · subst hi
    obtain ⟨hstatus, herr⟩ | ⟨hstatus, hentry⟩ := exec_configure_errIndex h
    · exact ⟨fun _ => herr, fun _ hfail => absurd hfail hstatus⟩
    · exact ⟨fun hnot => absurd ⟨rfl, hstatus⟩ hnot, fun _ _ => hentry⟩
  · exact ⟨fun _ => exec_errIndex_eq_zero hi h, fun hc => absurd hc hi⟩

end Sys2Proof.Machine
end

section
/-!
PROOF. The state of the block: the invariant over every step and every transaction, its values at power-on, and the codes of
`STATUS` and `LC`.
-/

namespace Sys2Proof.Machine

/-! ### The invariant -/

/-- Settles O49: a step from inside the invariant has one outcome, and `stepNeverStops` says that it is inside. -/
theorem stepKeepsInvariant : Obligations.StepKeepsInvariant := by
  intro s t h hstep
  obtain ⟨u, hu, _, hinv⟩ := stepNeverStops s h
  obtain rfl : u = t := by simpa [hu] using hstep
  exact hinv

/-- Settles O50: so it is with a single transaction, by `advance_inv`. -/
theorem transactionKeepsInvariant : Obligations.TransactionKeepsInvariant := by
  intro s t h hadvance
  obtain ⟨u, hu, hinv⟩ := advance_inv h
  obtain rfl : u = t := by simpa [hu] using hadvance
  exact hinv

/-- After power-on the channel is the default one, which rule R8 bounds; nothing runs and nothing has been issued. -/
theorem powerOn_inv (c : Config) : (State.powerOn c).Inv where
  channel := c.defaultChannel_le
  memory := rfl
  sequencer := rfl
  errIndex hne := absurd rfl hne
  trace := nofun

/-- Settles O48. -/
theorem invariantAtPowerOn : Obligations.InvariantAtPowerOn := ⟨powerOn_inv, powerOn_inv Config.installed⟩

theorem powerOn_hostView (c : Config) :
    (State.powerOn c).hostView =
      { busy := 0#1, lc := 0#3, curChannel := c.params.defaultChannel, curDataRate := c.params.defaultDataRate,
        status := 0#8, errIndex := 0#16 } := rfl

/-- Settles O46: the reset state is the power-on state of the installed configuration. -/
theorem powerOnValues : Obligations.PowerOnValues :=
  ⟨fun c => ⟨rfl, powerOn_hostView c⟩, rfl, powerOn_hostView Config.installed⟩

/-! ### The codes -/

/-- The statuses in the order of their codes (60_exceptions.md rule R230). -/
def statusesByCode : List Status :=
  [.ok, .transportError, .hardwareMismatch, .frequencyOutOfRange, .invalidModulation, .payloadTooLarge, .fifoTimeout,
    .notReady, .halted, .dataRateOutOfRange, .trimOutOfRange, .invalidFraming, .bufferOutOfRange, .illegalOperation]

/-- The lifecycle states in the order of their codes (10_state.md rule R23). -/
def lcsByCode : List Lc := [.unreset, .resetDone, .configuring, .ready, .halted]

theorem Status.ofCode_eq (v : BitVec 8) : Status.ofCode v = statusesByCode[v.toNat]? := rfl

theorem Lc.ofCode_eq (v : BitVec 3) : Lc.ofCode v = lcsByCode[v.toNat]? := rfl

theorem statusesByCode_codes : statusesByCode.map (fun st => st.code.toNat) = List.range 14 := by decide

theorem lcsByCode_codes : lcsByCode.map (fun lc => lc.code.toNat) = List.range 5 := by decide

theorem mem_statusesByCode (st : Status) : st ∈ statusesByCode := by
  cases st <;> decide

theorem mem_lcsByCode (lc : Lc) : lc ∈ lcsByCode := by
  cases lc <;> decide

/-- In a list of all values whose codes are 0, 1, 2, … in this order, a number finds the value it is the code of. -/
theorem getElem?_toNat_eq_some_iff {α : Type} {w n : Nat} {values : List α} {code : α → BitVec w}
    (hcodes : values.map (fun x => (code x).toNat) = List.range n) {x : α} (hx : x ∈ values) (v : BitVec w) :
    values[v.toNat]? = some x ↔ code x = v := by
  have code_at {i : Nat} {y : α} (hy : values[i]? = some y) : (code y).toNat = i := by
    have hrange : (List.range n)[i]? = some (code y).toNat := by simp [← hcodes, hy]
    obtain ⟨_, hi⟩ := List.getElem?_eq_some_iff.mp hrange
    simpa using hi.symm
  constructor
  · exact fun h => BitVec.eq_of_toNat_eq (code_at h)
  · rintro rfl
    obtain ⟨i, hi⟩ := List.mem_iff_getElem?.mp hx
    rw [code_at hi, hi]

/-- Settles O41. -/
theorem statusAndLifecycleCodes : Obligations.StatusAndLifecycleCodes :=
  ⟨statusesByCode_codes, lcsByCode_codes,
    fun v st => getElem?_toNat_eq_some_iff statusesByCode_codes (mem_statusesByCode st) v,
    fun v => (Status.ofCode_eq v).symm ▸ List.getElem?_eq_none_iff,
    fun v lc => getElem?_toNat_eq_some_iff lcsByCode_codes (mem_lcsByCode lc) v,
    fun v => (Lc.ofCode_eq v).symm ▸ List.getElem?_eq_none_iff⟩

end Sys2Proof.Machine
end

section
/-!
PROOF. The frame of the operations: each stores at most one of `LC`, `CUR_CHANNEL` and `CUR_DATA_RATE`, and everything else
but `STATUS`, `ERR_INDEX`, the sequencer, the trace and the answers stays as it was.
-/

namespace Sys2Proof.Machine

/-! ### The register an operation may store -/

/-- The registers that only some operations write (10_state.md rules R23 to R25). -/
inductive StoredRegister where
  | lc
  | channel
  | dataRate

/-- The one of them that an operation may write. -/
def storedBy : Instr → Option StoredRegister
  | .reset => some .lc
  | .configure => some .lc
  | .verify => some .lc
  | .setFrequency _ => some .channel
  | .applyFrequency _ _ => none
  | .setDataRate _ => some .dataRate
  | .setModulation _ => none
  | .setPower _ => none
  | .adjustCrystal _ => none
  | .transmit _ _ _ => none

/-- The one of them that the operation running at a position may still write. -/
def Sequencer.stores : Sequencer → Option StoredRegister
  | .idle => none
  | .reset => some .lc
  | .configure _ => some .lc
  | .verify => some .lc
  | .property _ _ _ => none
  | .dataRateRead _ => some .dataRate
  | .dataRateWrite _ _ => some .dataRate
  | .txFirst _ => none
  | .txPoll _ _ _ => none
  | .txChunk _ _ => none
  | .txStart _ => none

theorem storedBy_eq_lc {i : Instr} (h : storedBy i = some .lc) : i = .reset ∨ i = .configure ∨ i = .verify := by
  cases i <;> simp [storedBy] at h ⊢

theorem storedBy_eq_channel {i : Instr} (h : storedBy i = some .channel) : ∃ channel, i = .setFrequency channel := by
  cases i <;> simp [storedBy] at h ⊢

theorem storedBy_eq_dataRate {i : Instr} (h : storedBy i = some .dataRate) : ∃ bps, i = .setDataRate bps := by
  cases i <;> simp [storedBy] at h ⊢

/-! ### The frame of a run and the updates that keep it -/

/-- What an operation that may write the register `w` and began in `s` has left unchanged in `u`, and what it has issued. -/
structure RunFrame (w : Option StoredRegister) (s u : State) : Prop where
  /-- It has ended, or the operation that runs is still one that may write `w`. -/
  seq : u.seq = .idle ∨ u.seq.stores = w
  lc : w ≠ some .lc → u.lc = s.lc
  curChannel : w ≠ some .channel → u.curChannel = s.curChannel
  curDataRate : w ≠ some .dataRate → u.curDataRate = s.curDataRate
  cfg : u.cfg = s.cfg
  pmem : u.pmem = s.pmem
  program : u.program = s.program
  events : ∃ events : List Event, u.trace = s.trace ++ events ∧ u.answers = s.answers.drop events.length

namespace RunFrame

variable {w : Option StoredRegister} {s u : State}

theorem of_idle (w : Option StoredRegister) (hidle : s.seq = .idle) : RunFrame w s s :=
  ⟨.inl hidle, fun _ => rfl, fun _ => rfl, fun _ => rfl, rfl, rfl, rfl, [], by simp⟩

/-- A transaction is one more event, and uses up one answer. -/
theorem transact (h : RunFrame w s u) (tx : Transaction) : RunFrame w s (u.transact tx) where
  __ := h
  events := by
    obtain ⟨events, htrace, hanswers⟩ := h.events
    exact ⟨events ++ [⟨tx, u.answerTo tx⟩], by simp [htrace], by simp [hanswers]⟩

theorem setSeq (h : RunFrame w s u) {v : Sequencer} (hv : v.stores = w) : RunFrame w s (u.setSeq v) where
  __ := h
  seq := .inr hv

theorem finish (h : RunFrame w s u) (st : Status) (info : BitVec 16) : RunFrame w s (u.finish st info) where
  __ := h
  seq := .inl rfl

theorem setLc (h : RunFrame (some .lc) s u) (v : Lc) : RunFrame (some .lc) s (u.setLc v) where
  __ := h
  lc hne := absurd rfl hne

theorem setChannel (h : RunFrame (some .channel) s u) (v : BitVec 8) : RunFrame (some .channel) s (u.setChannel v) where
  __ := h
  curChannel hne := absurd rfl hne

theorem setDataRate (h : RunFrame (some .dataRate) s u) (v : BitVec 16) :
    RunFrame (some .dataRate) s (u.setDataRate v) where
  __ := h
  curDataRate hne := absurd rfl hne

theorem complete (h : RunFrame w s u) : RunFrame w s u.complete := h.finish .ok 0#16

theorem raise (h : RunFrame w s u) (st : Status) : RunFrame w s (u.raise st) := h.finish st 0#16

theorem raiseFatal (h : RunFrame (some .lc) s u) (st : Status) : RunFrame (some .lc) s (u.raiseFatal st) :=
  (h.setLc .halted).raise st

theorem loadFrom (h : RunFrame (some .lc) s u) (i : Nat) : RunFrame (some .lc) s (loadFrom i u) := by
  obtain ⟨_, heq⟩ | ⟨_, heq⟩ := loadFrom_cases i u <;> rw [heq]
  · exact h.setSeq rfl
  · exact (h.setLc _).complete

theorem transmitLoop (h : RunFrame none s u) (job : TxJob) (sent : Nat) : RunFrame none s (transmitLoop job sent u) := by
  obtain ⟨_, heq⟩ | ⟨_, heq⟩ := transmitLoop_cases job sent u <;> rw [heq] <;> exact h.setSeq rfl

theorem advanceWrite (h : RunFrame none s u) {job : TxJob} {sent n : Nat} {v : State}
    (ha : advanceWrite job sent n u = .next v) : RunFrame none s v := by
  obtain ⟨_, heq⟩ | ⟨_, ⟨_, heq⟩ | ⟨_, _, heq⟩⟩ := advanceWrite_cases job sent n u <;> rw [heq] at ha <;> cases ha
  · exact (h.transact _).raise _
  · exact (h.transact _).transmitLoop _ _

/-- Every transaction of a running operation keeps the frame of the operation. -/
theorem advance (h : RunFrame w s u) (hbusy : u.seq ≠ .idle) {v : State} (ha : advance u = .next v) :
    RunFrame w s v := by
  have hw : u.seq.stores = w := h.seq.resolve_left hbusy
  unfold Machine.advance at ha
  cases hs : u.seq with
  | idle => exact absurd hs hbusy
  | reset =>
    rw [hs] at ha hw; cases ha; subst hw
    obtain ⟨_, heq⟩ | ⟨_, _, heq⟩ := advanceReset_cases u <;> rw [heq]
    · exact (h.transact _).raiseFatal _
    · exact ((h.transact _).setLc _).complete
  | configure i =>
    rw [hs] at ha hw; cases ha; subst hw
    obtain ⟨_, heq⟩ | ⟨_, _, ⟨_, heq⟩ | ⟨_, _, heq⟩⟩ := advanceConfigure_cases i u <;> rw [heq]
    · exact (h.setLc _).complete
    · exact ((h.transact _).setLc _).finish _ _
    · exact (h.transact _).loadFrom _
  | verify =>
    rw [hs] at ha hw; cases ha; subst hw
    obtain ⟨_, heq⟩ | ⟨_, _, ⟨_, heq⟩ | ⟨_, heq⟩⟩ := advanceVerify_cases u <;> rw [heq]
    · exact (h.transact _).raiseFatal _
    · exact ((h.transact _).setLc _).complete
    · exact (h.transact _).raiseFatal _
  | property group offset bytes =>
    rw [hs] at ha hw; cases ha; subst hw
    obtain ⟨_, heq⟩ | ⟨_, _, heq⟩ := advanceProperty_cases group offset bytes u <;> rw [heq]
    · exact (h.transact _).raise _
    · exact (h.transact _).complete
  | dataRateRead bps =>
    rw [hs] at ha hw; cases ha; subst hw
    obtain ⟨_, heq⟩ | ⟨_, _, ⟨_, heq⟩ | ⟨_, heq⟩⟩ := advanceDataRateRead_cases bps u <;> rw [heq]
    · exact (h.transact _).raise _
    · exact (h.transact _).setSeq rfl
    · exact (h.transact _).raise _
  | dataRateWrite bps r =>
    rw [hs] at ha hw; cases ha; subst hw
    obtain ⟨_, heq⟩ | ⟨_, _, heq⟩ := advanceDataRateWrite_cases bps r u <;> rw [heq]
    · exact (h.transact _).raise _
    · exact ((h.transact _).setDataRate _).complete
  | txFirst job => rw [hs] at ha hw; subst hw; exact h.advanceWrite ha
  | txChunk job sent => rw [hs] at ha hw; subst hw; exact h.advanceWrite ha
  | txPoll job sent polls =>
    rw [hs] at ha hw; cases ha; subst hw
    obtain ⟨_, heq⟩ | ⟨_, _, ⟨_, heq⟩ | ⟨_, _, heq⟩ | ⟨_, _, heq⟩⟩ := advancePoll_cases job sent polls u <;> rw [heq]
    · exact (h.transact _).raise _
    · exact (h.transact _).setSeq rfl
    · exact (h.transact _).raise _
    · exact (h.transact _).setSeq rfl
  | txStart job =>
    rw [hs] at ha hw; cases ha; subst hw
    obtain ⟨_, heq⟩ | ⟨_, _, heq⟩ := advanceStart_cases job u <;> rw [heq]
    · exact (h.transact _).raise _
    · exact (h.transact _).complete

end RunFrame

/-! ### The frame of an operation -/

/-- The start of an operation stays inside the operation's frame. -/
theorem startOf_runFrame (i : Instr) {s : State} (hidle : s.seq = .idle) : RunFrame (storedBy i) s (startOf i s) := by
  have h : RunFrame (storedBy i) s s := .of_idle (storedBy i) hidle
  cases i with
  | reset => exact h.setSeq rfl
  | configure => exact h.loadFrom 0
  | verify => exact h.setSeq rfl
  | setFrequency channel => exact (h.setChannel _).complete
  | applyFrequency freqHz adj =>
    obtain ⟨_, heq⟩ | ⟨_, _, heq⟩ := startApplyFrequency_cases freqHz adj s <;> rw [startOf, heq]
    · exact h.raise _
    · exact h.setSeq rfl
  | setDataRate bps => exact h.setSeq rfl
  | setModulation mode =>
    obtain ⟨_, heq⟩ | ⟨_, _, heq⟩ := startSetModulation_cases mode s <;> rw [startOf, heq]
    · exact h.raise _
    · exact h.setSeq rfl
  | setPower level => exact h.setSeq rfl
  | adjustCrystal adj =>
    obtain ⟨_, heq⟩ | ⟨_, _, heq⟩ := startAdjustCrystal_cases adj s <;> rw [startOf, heq]
    · exact h.raise _
    · exact h.setSeq rfl
  | transmit paddr len framecount =>
    obtain ⟨_, heq⟩ | ⟨_, _, heq⟩ | ⟨_, _, _, heq⟩ | ⟨_, _, _, _, ⟨_, heq⟩ | ⟨_, heq⟩⟩ :=
      startTransmitOperation_cases paddr len framecount s <;> rw [startOf, heq]
    · exact h.complete
    · exact h.raise _
    · exact h.raise _
    · exact h.raise _
    · exact h.setSeq rfl

/-- The frame of every operation, and that it has ended. -/
theorem exec_runFrame {i : Instr} {s t : State} (h : exec i s = .next t) : RunFrame (storedBy i) s t ∧ t.seq = .idle := by
  obtain ⟨hidle, ⟨st, _, rfl⟩ | ⟨_, hrun⟩⟩ := exec_cases h
  · exact ⟨(RunFrame.of_idle _ hidle).raise st, rfl⟩
  · exact ⟨runToEnd_keeps (fun _ _ hbusy hu => hu.advance hbusy) (startOf_runFrame i hidle) hrun, runToEnd_idle hrun⟩

/-- Settles O44: `RunFrame` of the register that the operation may write. -/
theorem operationFrame : Obligations.OperationFrame := by
  intro i s t h
  obtain ⟨hframe, hidle⟩ := exec_runFrame h
  refine ⟨fun hreset hconfigure hverify => hframe.lc fun hw => ?_, fun hi => hframe.curChannel fun hw => ?_,
    fun hi => hframe.curDataRate fun hw => ?_, hframe.cfg, hframe.pmem, hframe.program, hidle,
    fun a => by rw [hframe.pmem], hframe.events⟩
  · obtain rfl | rfl | rfl := storedBy_eq_lc hw
    · exact hreset rfl
    · exact hconfigure rfl
    · exact hverify rfl
  · obtain ⟨channel, rfl⟩ := storedBy_eq_channel hw
    exact hi channel rfl
  · obtain ⟨bps, rfl⟩ := storedBy_eq_dataRate hw
    exact hi bps rfl

end Sys2Proof.Machine
end

section
/-!
PROOF. `CUR_CHANNEL` and `CUR_DATA_RATE`: the bound of the one, and when the other is stored.
-/

namespace Sys2Proof.Machine

/-! ### The channel bound -/

/-- All that a step can do, if it answers a next state. -/
theorem step_cases {s t : State} (h : step s = .next t) :
    (s.seq ≠ .idle ∧ runToEnd s = .next t) ∨
    (s.seq = .idle ∧ s.program = [] ∧ t = s) ∨
    (∃ w rest, s.seq = .idle ∧ s.program = w :: rest ∧
      ((∃ i, decode w = .op i ∧ exec i (s.setProgram rest) = .next t) ∨
       (∃ why, decode w = .illegal why ∧ t = (s.setProgram rest).raise .illegalOperation))) := by
  by_cases hidle : s.seq = .idle
  · cases hprog : s.program with
    | nil =>
      rw [step_of_no_word hidle hprog] at h
      cases h
      exact .inr (.inl ⟨hidle, rfl, rfl⟩)
    | cons w rest =>
      refine .inr (.inr ⟨w, rest, hidle, rfl, ?_⟩)
      cases hdecode : decode w with
      | op i => exact .inl ⟨i, rfl, step_of_op hidle hprog hdecode ▸ h⟩
      | illegal why =>
        rw [step_of_illegal hidle hprog hdecode] at h
        cases h
        exact .inr ⟨why, rfl, rfl⟩
  · exact .inl ⟨hidle, step_of_busy hidle ▸ h⟩

/-- `CUR_CHANNEL <= CHANNEL_LIMIT_UPPER` (10_state.md rule R28). -/
def ChannelBounded (s : State) : Prop := s.curChannel ≤ s.cfg.params.channelLimitUpper

theorem ChannelBounded.of_eq {s t : State} (h : ChannelBounded s) (hchannel : t.curChannel = s.curChannel)
    (hcfg : t.cfg = s.cfg) : ChannelBounded t := by
  unfold ChannelBounded
  rw [hchannel, hcfg]
  exact h

/-- No transaction writes the channel, so that a run keeps the bound from every position. -/
theorem runToEnd_channelBounded {s t : State} (h : ChannelBounded s) (hrun : runToEnd s = .next t) : ChannelBounded t :=
  runToEnd_keeps
    (fun _ _ _ hu ha => hu.of_eq (advance_untouched ha).curChannel (advance_untouched ha).cfg) h hrun

/-- Only SET_FREQUENCY writes the channel, and it stores the clamped one (41_synthesizer.md rule R133). -/
theorem exec_channelBounded {i : Instr} {s t : State} (h : ChannelBounded s) (hexec : exec i s = .next t) :
    ChannelBounded t := by
  obtain ⟨hidle, ⟨st, _, rfl⟩ | ⟨_, hrun⟩⟩ := exec_cases hexec
  · exact h
  · refine runToEnd_channelBounded ?_ hrun
    have hstart := startOf_runFrame i hidle
    by_cases hw : storedBy i = some .channel
    · obtain ⟨channel, rfl⟩ := storedBy_eq_channel hw
      exact clampChannel_le _ channel
    · exact h.of_eq (hstart.curChannel hw) hstart.cfg

/-- Settles O47. -/
theorem channelNeverExceedsLimit : Obligations.ChannelNeverExceedsLimit := by
  refine ⟨Config.defaultChannel_le, fun s t (h : ChannelBounded s) hstep => ?_⟩
  obtain ⟨_, hrun⟩ | ⟨_, _, rfl⟩ | ⟨w, rest, _, _, ⟨i, _, hexec⟩ | ⟨_, _, rfl⟩⟩ := step_cases hstep
  · exact runToEnd_channelBounded h hrun
  · exact h
  · exact exec_channelBounded (s := s.setProgram rest) h hexec
  · exact h

/-! ### The data rate -/

/-- How far a SET_DATA_RATE of `bps` that began in `s` has come in `u` (42_datarate.md rule R165). -/
inductive DataRateAt (bps : BitVec 16) (s u : State) : Prop where
  /-- The read-back comes next. -/
  | reading (hseq : u.seq = .dataRateRead bps) (hrate : u.curDataRate = s.curDataRate)
  /-- The write comes next. -/
  | writing (r : BitVec 32) (hseq : u.seq = .dataRateWrite bps r) (hrate : u.curDataRate = s.curDataRate)
  /-- The write succeeded. -/
  | stored (hidle : u.seq = .idle) (hstatus : u.status = .ok) (hrate : u.curDataRate = bps)
  /-- A check or a transaction failed. -/
  | failed (hidle : u.seq = .idle) (hstatus : u.status ≠ .ok) (hrate : u.curDataRate = s.curDataRate)

/-- The rate stays as it was up to the write that succeeds. -/
theorem dataRateAt_advance {bps : BitVec 16} {s u v : State} (hbusy : u.seq ≠ .idle) (h : DataRateAt bps s u)
    (ha : advance u = .next v) : DataRateAt bps s v := by
  cases h with
  | reading hseq hrate =>
    simp only [advance, hseq] at ha
    cases ha
    obtain ⟨_, heq⟩ | ⟨_, _, ⟨_, heq⟩ | ⟨_, heq⟩⟩ := advanceDataRateRead_cases bps u <;> rw [heq]
    · exact .failed rfl nofun hrate
    · exact .writing _ rfl hrate
    · exact .failed rfl nofun hrate
  | writing r hseq hrate =>
    simp only [advance, hseq] at ha
    cases ha
    obtain ⟨_, heq⟩ | ⟨_, _, heq⟩ := advanceDataRateWrite_cases bps r u <;> rw [heq]
    · exact .failed rfl nofun hrate
    · exact .stored rfl rfl rfl
  | stored hidle _ _ => exact absurd hidle hbusy
  | failed hidle _ _ => exact absurd hidle hbusy

theorem lifecycleGuard_ne_ok {g : GuardClass} {lc : Lc} {st : Status} (h : lifecycleGuard g lc = some st) : st ≠ .ok := by
  rintro rfl
  obtain hnone | hnotReady | hhalted := lifecycleGuard_cases g lc
  · simp [hnone] at h
  · simp [hnotReady] at h
  · simp [hhalted] at h

theorem exec_dataRateAt {bps : BitVec 16} {s t : State} (h : exec (.setDataRate bps) s = .next t) : DataRateAt bps s t := by
  obtain ⟨_, ⟨st, hguard, rfl⟩ | ⟨_, hrun⟩⟩ := exec_cases h
  · exact .failed rfl (lifecycleGuard_ne_ok hguard) rfl
  · have hstart : DataRateAt bps s (startOf (.setDataRate bps) s) := .reading rfl rfl
    exact runToEnd_keeps (fun _ _ => dataRateAt_advance) hstart hrun

/-- Settles O29: a SET_DATA_RATE that has ended is at one of the two ends of `DataRateAt`. -/
theorem dataRateStoredOnlyOnSuccess : Obligations.DataRateStoredOnlyOnSuccess := by
  intro s t bps h
  obtain ⟨_, hidle⟩ := exec_runFrame h
  cases exec_dataRateAt h with
  | reading hseq _ => rw [hidle] at hseq; cases hseq
  | writing r hseq _ => rw [hidle] at hseq; cases hseq
  | stored _ hstatus hrate => exact ⟨fun _ => hrate, fun hne => absurd hstatus hne⟩
  | failed _ hstatus hrate => exact ⟨fun hok => absurd hok hstatus, fun _ => hrate⟩

end Sys2Proof.Machine
end

section
/-!
PROOF. The bound of a run plays no part: fuel that covers `remaining` gives the run to the end, however much more it is.
-/

namespace Sys2Proof.Machine

/-- All fuels that cover `remaining` give the same run, since each transaction takes one from it. -/
theorem settle_eq_settle : ∀ (n m : Nat) (s : State), remaining s ≤ n → remaining s ≤ m → settle n s = settle m s := by
  intro n
  induction n with
  | zero =>
    intro m s hn _
    have hidle : s.seq = .idle := idle_of_remaining_eq_zero (Nat.le_zero.mp hn)
    rw [settle_of_idle hidle, settle_of_idle hidle]
  | succ n ih =>
    intro m s hn hm
    by_cases hidle : s.seq = .idle
    · rw [settle_of_idle hidle, settle_of_idle hidle]
    · cases m with
      | zero => exact absurd (idle_of_remaining_eq_zero (Nat.le_zero.mp hm)) hidle
      | succ m =>
        rw [settle_of_busy hidle, settle_of_busy hidle]
        cases ha : advance s with
        | next t =>
          have hlt := advance_remaining hidle ha
          exact ih m t (by omega) (by omega)
        | fault r => rfl
        | refused r => rfl

theorem settle_eq_runToEnd {n : Nat} {s : State} (h : remaining s ≤ n) : settle n s = runToEnd s :=
  settle_eq_settle n (remaining s) s h le_rfl

/-- Settles O13: one more than what `t` can still take is enough fuel for `s`. -/
theorem operationIsItsTransactionsInOrder : Obligations.OperationIsItsTransactionsInOrder := by
  intro s t hbusy ha
  have hlt := advance_remaining hbusy ha
  calc runToEnd s = settle (remaining s - 1 + 1) s := (settle_eq_runToEnd (by omega)).symm
    _ = settle (remaining s - 1) t := settle_advance hbusy ha
    _ = runToEnd t := settle_eq_runToEnd (by omega)

end Sys2Proof.Machine
end

section
/-!
PROOF. The payload memory: the host's write, and the canonical form as a choice of one list for each memory.
-/

namespace Sys2Proof.Machine

/-! ### The host's write -/

/-- The invariant asks of PMEM only its canonical form. -/
theorem State.Inv.setPmem {s : State} (h : s.Inv) {m : Memory} (hm : m.wf = true) : (s.setPmem m).Inv :=
  ⟨h.channel, hm, h.sequencer, h.errIndex, h.trace⟩

theorem hostWrite_borrowed {s : State} {addr : BitVec 24} (v : Byte) (h : s.borrowed addr.toNat = true) :
    s.hostWrite addr v = .refused .payloadBorrowed :=
  if_pos h

theorem hostWrite_free {s : State} {addr : BitVec 24} (v : Byte) (h : s.borrowed addr.toNat = false) :
    s.hostWrite addr v = .next (s.setPmem (s.pmem.write addr.toNat v)) := by
  simp [State.hostWrite, h]

/-- Settles O53: the laws of `Memory.write` for the written memory, and only PMEM is set. -/
theorem hostWriteChangesOneByte : Obligations.HostWriteChangesOneByte := by
  intro s addr v h
  refine ⟨hostWrite_borrowed v, fun hfree => ⟨_, hostWrite_free v hfree, ?_, rfl, ?_⟩⟩
  · exact h.setPmem (Memory.write_wf h.memory addr.isLt)
  · exact Memory.read_write h.memory

/-! ### One list for each memory -/

theorem Memory.wfFrom_cons {lo a : Nat} {v : Byte} {rest : Memory} :
    Memory.wfFrom lo ((a, v) :: rest) = true ↔
      lo ≤ a ∧ a < pmemSize ∧ v ≠ Memory.unlisted ∧ rest.wfFrom (a + 1) = true := by
  simp only [Memory.wfFrom, Bool.and_eq_true, decide_eq_true_eq, and_assoc]

@[simp] theorem Memory.read_cons_self (a : Nat) (v : Byte) (rest : Memory) : Memory.read ((a, v) :: rest) a = v :=
  if_pos rfl

theorem Memory.read_cons_of_ne {a x : Nat} (v : Byte) (rest : Memory) (h : x ≠ a) :
    Memory.read ((a, v) :: rest) x = rest.read x :=
  if_neg h

/-- The first listed address of a canonical memory is the least that does not read as an unlisted byte. -/
theorem Memory.head_le {lo a b : Nat} {v y : Byte} {rest : Memory} (hw : Memory.wfFrom lo ((a, v) :: rest) = true)
    (hread : Memory.read ((a, v) :: rest) b = y) (hy : y ≠ Memory.unlisted) : a ≤ b := by
  obtain ⟨_, hsize, hv, hrest⟩ := Memory.wfFrom_cons.mp hw
  by_contra hlt
  have hwa : Memory.wfFrom a ((a, v) :: rest) = true := Memory.wfFrom_cons.mpr ⟨le_rfl, hsize, hv, hrest⟩
  exact hy (hread ▸ Memory.read_below hwa (Nat.not_le.mp hlt))

/-- Equal readings have the same first address, the same byte there, and equal readings past it. -/
theorem Memory.eq_of_read_eq {lo : Nat} {m m' : Memory} (hw : m.wfFrom lo = true) (hw' : m'.wfFrom lo = true)
    (h : ∀ a : Nat, m.read a = m'.read a) : m = m' := by
  induction m generalizing lo m' with
  | nil =>
    cases m' with
    | nil => rfl
    | cons c' rest' =>
      obtain ⟨_, _, hv', _⟩ := Memory.wfFrom_cons.mp hw'
      exact absurd ((h c'.1).trans (Memory.read_cons_self c'.1 c'.2 rest')).symm hv'
  | cons c rest ih =>
    obtain ⟨a, v⟩ := c
    obtain ⟨_, _, hv, hrest⟩ := Memory.wfFrom_cons.mp hw
    cases m' with
    | nil => exact absurd ((h a).symm.trans (Memory.read_cons_self a v rest)).symm hv
    | cons c' rest' =>
      obtain ⟨b, y⟩ := c'
      obtain ⟨_, _, hy, hrest'⟩ := Memory.wfFrom_cons.mp hw'
      have hab : a ≤ b := Memory.head_le hw ((h b).trans (Memory.read_cons_self b y rest')) hy
      have hba : b ≤ a := Memory.head_le hw' ((h a).symm.trans (Memory.read_cons_self a v rest)) hv
      obtain rfl : a = b := Nat.le_antisymm hab hba
      have hvy : v = y := by simpa using h a
      have htail : rest = rest' := ih hrest hrest' fun x => by
        by_cases hx : x = a
        · subst hx
          rw [Memory.read_below hrest (by omega), Memory.read_below hrest' (by omega)]
        · rw [← Memory.read_cons_of_ne v rest hx, ← Memory.read_cons_of_ne y rest' hx]
          exact h x
      rw [hvy, htail]

/-- Settles O54. -/
theorem canonicalMemoryIsUnique : Obligations.CanonicalMemoryIsUnique := fun _ _ => Memory.eq_of_read_eq

end Sys2Proof.Machine
end

section
/-!
PROOF. The byte order of 20_memory.md rule R55: the bytes of a value, most significant first, read back as the value.
-/

namespace Sys2Proof.Machine

/-! ### Values put in -/

theorem u16Bytes_value (v : BitVec 16) : (v.extractLsb' 8 8).toNat * 2 ^ 8 + (v.extractLsb' 0 8).toNat = v.toNat := by
  simp only [BitVec.extractLsb'_toNat, Nat.shiftRight_eq_div_pow]
  omega

theorem beNat_frequencyBytes_tail (word : BitVec 28) :
    beNat [(word.extractLsb' 24 4).setWidth 8, word.extractLsb' 16 8, word.extractLsb' 8 8, word.extractLsb' 0 8] =
      word.toNat := by
  simp only [beNat, List.foldl_cons, List.foldl_nil, BitVec.toNat_setWidth, BitVec.extractLsb'_toNat,
    Nat.shiftRight_eq_div_pow]
  omega

theorem toNat_frequencyWord {w : Int} (h0 : 0 ≤ w) (hw : w < 2 ^ 28) : ((BitVec.ofInt 28 w).toNat : Int) = w := by
  rw [BitVec.toNat_ofInt]
  omega

theorem dataRateBytes_value (reg : BitVec 24) :
    (reg.extractLsb' 16 8).toNat * 2 ^ 16 + (reg.extractLsb' 8 8).toNat * 2 ^ 8 + (reg.extractLsb' 0 8).toNat = reg.toNat := by
  simp only [BitVec.extractLsb'_toNat, Nat.shiftRight_eq_div_pow]
  omega

/-! ### Values taken -/

theorem partOf_pair (hi lo : Byte) : partOf [hi, lo] = hi ++ lo := by
  apply BitVec.eq_of_toNat_eq
  rw [Laws.toNat_append]
  simp only [partOf, beNat, List.foldl_cons, List.foldl_nil, BitVec.toNat_ofNat]
  omega

theorem readBackWord_four (b3 b2 b1 b0 : Byte) : readBackWord [b3, b2, b1, b0] = b3 ++ b2 ++ b1 ++ b0 := by
  apply BitVec.eq_of_toNat_eq
  rw [Laws.toNat_append, Laws.toNat_append, Laws.toNat_append]
  simp only [readBackWord, beNat, List.foldl_cons, List.foldl_nil, BitVec.toNat_ofNat]
  omega

theorem payload_getElem? {s : State} {paddr : BitVec 24} {len : BitVec 16} {i : Nat} (hi : i < len.toNat) :
    (s.payload paddr len)[i]? = some (s.pmem.read (paddr.toNat + i)) := by
  simp [State.payload, hi]

/-- Settles O52: one lemma above for each value. -/
theorem multiByteValuesAreBigEndian : Obligations.MultiByteValuesAreBigEndian := by
  refine ⟨fun n w h0 hw => ?_, fun dr hdr => ?_, readBackWord_four, partOf_pair, fun channel condition v => ?_,
    fun s paddr len i hi => ?_⟩
  · refine ⟨_, _, _, _, rfl, ?_⟩
    rw [beNat_frequencyBytes_tail, toNat_frequencyWord h0 hw]
  · refine ⟨_, _, _, rfl, ?_⟩
    rw [dataRateBytes_value, BitVec.toNat_ofNat, Nat.mod_eq_of_lt hdr]
  · exact ⟨_, _, rfl, u16Bytes_value v⟩
  · rw [requestBytes_writeFifo, payload_getElem? hi]

end Sys2Proof.Machine
end

section
/-!
PROOF. One transaction of a running TRANSMIT, said once for its four positions, and what follows for its whole run: its
start-transmit and its failures come last.
-/

namespace Sys2Proof.Machine

/-! ### One transaction of a TRANSMIT -/

/-- Whether a transaction is a start-transmit. -/
def Transaction.isStartTx : Transaction → Bool
  | .startTx _ _ _ => true
  | _ => false

@[simp] theorem startsTransmission_nil : startsTransmission [] = false := rfl

@[simp] theorem startsTransmission_singleton (tx : Transaction) (answer : Response) :
    startsTransmission [⟨tx, answer⟩] = tx.isStartTx := by
  cases tx <;> rfl

@[simp] theorem startsTransmission_append (before after : List Event) :
    startsTransmission (before ++ after) = (startsTransmission before || startsTransmission after) :=
  List.any_append

/-- What the next transaction of the TRANSMIT of `job`, running in `u`, can lead to (44_fifo_transmit.md rules R204 to
R207). -/
inductive TransmitStep (job : TxJob) (u : State) : State → Prop where
  /-- A write or a poll succeeded, and the same TRANSMIT goes on. -/
  | goesOn (tx : Transaction) (v : Sequencer) (htx : tx.isStartTx = false) (hok : u.answerTo tx ≠ .fail)
      (hv : v.job? = some job) : TransmitStep job u ((u.transact tx).setSeq v)
  /-- The last poll of a wait was short. -/
  | timesOut (hok : u.answerTo .readFifoFreeSpace ≠ .fail) :
      TransmitStep job u ((u.transact .readFifoFreeSpace).raise .fifoTimeout)
  /-- A write, a poll or the start-transmit failed. -/
  | fails (tx : Transaction) (htx : tx.isStartTx = true → tx = startTransmit job u) (hfail : u.answerTo tx = .fail) :
      TransmitStep job u ((u.transact tx).raise .transportError)
  /-- The start-transmit succeeded. -/
  | completes (hok : u.answerTo (startTransmit job u) ≠ .fail) :
      TransmitStep job u (u.transact (startTransmit job u)).complete

theorem transmitLoop_eq_setSeq (job : TxJob) (sent : Nat) (u : State) :
    ∃ v : Sequencer, v.job? = some job ∧ transmitLoop job sent u = u.setSeq v := by
  obtain ⟨_, heq⟩ | ⟨_, heq⟩ := transmitLoop_cases job sent u
  · exact ⟨_, rfl, heq⟩
  · exact ⟨_, rfl, heq⟩

theorem advanceWrite_transmitStep {job : TxJob} {sent n : Nat} {u v : State} (ha : advanceWrite job sent n u = .next v) :
    TransmitStep job u v := by
  obtain ⟨_, heq⟩ | ⟨_, ⟨hfail, heq⟩ | ⟨_, hok, heq⟩⟩ := advanceWrite_cases job sent n u <;> rw [heq] at ha <;> cases ha
  · exact .fails _ nofun hfail
  · obtain ⟨q, hq, hloop⟩ := transmitLoop_eq_setSeq job (sent + n)
      (u.transact (.writeFifo (u.pmem.bytes (job.paddr.toNat + sent) n)))
    rw [hloop]
    exact .goesOn _ q rfl (by simp [hok]) hq

theorem advancePoll_transmitStep (job : TxJob) (sent polls : Nat) (u : State) :
    TransmitStep job u (advancePoll job sent polls u) := by
  obtain ⟨hfail, heq⟩ | ⟨_, hok, ⟨_, heq⟩ | ⟨_, _, heq⟩ | ⟨_, _, heq⟩⟩ := advancePoll_cases job sent polls u <;> rw [heq]
  · exact .fails _ nofun hfail
  · exact .goesOn _ _ rfl (by simp [hok]) rfl
  · exact .timesOut (by simp [hok])
  · exact .goesOn _ _ rfl (by simp [hok]) rfl

theorem advanceStart_transmitStep (job : TxJob) (u : State) : TransmitStep job u (advanceStart job u) := by
  obtain ⟨hfail, heq⟩ | ⟨_, hok, heq⟩ := advanceStart_cases job u <;> rw [heq]
  · exact .fails _ (fun _ => rfl) hfail
  · exact .completes (by simp [hok])

/-- All that one transaction of a running TRANSMIT can do. -/
theorem advance_transmitStep {job : TxJob} {u v : State} (hjob : u.seq.job? = some job) (ha : advance u = .next v) :
    TransmitStep job u v := by
  unfold advance at ha
  cases hs : u.seq with
  | txFirst _ =>
    rw [hs] at ha hjob; cases hjob
    exact advanceWrite_transmitStep ha
  | txChunk _ _ =>
    rw [hs] at ha hjob; cases hjob
    exact advanceWrite_transmitStep ha
  | txPoll _ sent polls =>
    rw [hs] at ha hjob; cases hjob; cases ha
    exact advancePoll_transmitStep job sent polls u
  | txStart _ =>
    rw [hs] at ha hjob; cases hjob; cases ha
    exact advanceStart_transmitStep job u
  | _ => rw [hs] at hjob; cases hjob

/-- After one transaction the same TRANSMIT goes on, or it has ended. -/
theorem TransmitStep.job?_or_idle {job : TxJob} {u v : State} (h : TransmitStep job u v) :
    v.seq.job? = some job ∨ v.seq = .idle := by
  cases h with
  | goesOn tx q _ _ hq => exact .inl hq
  | timesOut _ => exact .inr rfl
  | fails tx _ _ => exact .inr rfl
  | completes _ => exact .inr rfl

/-! ### The start-transmit and a failure come last -/

/-- A stretch of the trace in which no answer is a failure and no transmission starts. -/
structure Quiet (events : List Event) : Prop where
  answers : ∀ e ∈ events, e.answer ≠ .fail
  starts : startsTransmission events = false

theorem quiet_nil : Quiet [] := ⟨nofun, rfl⟩

theorem Quiet.concat {events : List Event} (h : Quiet events) {tx : Transaction} {answer : Response}
    (htx : tx.isStartTx = false) (hok : answer ≠ .fail) : Quiet (events ++ [⟨tx, answer⟩]) := by
  refine ⟨fun e he => ?_, by simp [h.starts, htx]⟩
  obtain hold | rfl : e ∈ events ∨ e = ⟨tx, answer⟩ := by simpa using he
  · exact h.answers e hold
  · exact hok

/-- What a TRANSMIT that ended with a status has issued, up to its last transaction. -/
inductive TransmitEnd (start : Transaction) (st : Status) : List Event → Prop where
  /-- A wait timed out, and nothing was issued after its polls. -/
  | timedOut {events : List Event} (hst : st = .fifoTimeout) (hquiet : Quiet events) : TransmitEnd start st events
  /-- The last transaction, which may be the start-transmit, failed. -/
  | failed {before : List Event} {tx : Transaction} (hst : st = .transportError) (hquiet : Quiet before)
      (htx : tx.isStartTx = true → tx = start) : TransmitEnd start st (before ++ [⟨tx, .fail⟩])
  /-- The start-transmit succeeded. -/
  | completed {before : List Event} {answer : Response} (hst : st = .ok) (hquiet : Quiet before)
      (hok : answer ≠ .fail) : TransmitEnd start st (before ++ [⟨start, answer⟩])

/-- How far a TRANSMIT of `job` that began in `s` has come in `u`. -/
inductive TransmitAt (job : TxJob) (s u : State) : Prop where
  | running (events : List Event) (hjob : u.seq.job? = some job) (hcfg : u.cfg = s.cfg)
      (hchannel : u.curChannel = s.curChannel) (htrace : u.trace = s.trace ++ events) (hquiet : Quiet events)
  | ended (events : List Event) (hidle : u.seq = .idle) (htrace : u.trace = s.trace ++ events)
      (hend : TransmitEnd (startTransmit job s) u.status events)

theorem startTransmit_congr (job : TxJob) {s u : State} (hcfg : u.cfg = s.cfg) (hchannel : u.curChannel = s.curChannel) :
    startTransmit job u = startTransmit job s := by
  rw [startTransmit, startTransmit, hcfg, hchannel]

theorem transact_trace_append {s u : State} {events : List Event} (h : u.trace = s.trace ++ events) (tx : Transaction) :
    (u.transact tx).trace = s.trace ++ (events ++ [⟨tx, u.answerTo tx⟩]) := by
  simp [h]

/-- The trace stays quiet up to the transaction that ends the operation. -/
theorem transmitAt_advance {job : TxJob} {s u v : State} (hbusy : u.seq ≠ .idle) (h : TransmitAt job s u)
    (ha : advance u = .next v) : TransmitAt job s v := by
  cases h with
  | ended _ hidle _ _ => exact absurd hidle hbusy
  | running events hjob hcfg hchannel htrace hquiet =>
    have hstart : startTransmit job u = startTransmit job s := startTransmit_congr job hcfg hchannel
    cases advance_transmitStep hjob ha with
    | goesOn tx q htx hok hq =>
      exact .running _ hq hcfg hchannel (transact_trace_append htrace tx) (hquiet.concat htx hok)
    | timesOut hok =>
      exact .ended _ rfl (transact_trace_append htrace _) (.timedOut rfl (hquiet.concat rfl hok))
    | fails tx htx hfail =>
      refine .ended _ rfl (transact_trace_append htrace tx) ?_
      rw [hfail]
      exact .failed rfl hquiet fun h => (htx h).trans hstart
    | completes hok =>
      refine .ended _ rfl (transact_trace_append htrace _) ?_
      rw [hstart] at hok ⊢
      exact .completed rfl hquiet hok

namespace TransmitEnd

variable {start : Transaction} {st : Status} {events : List Event}

theorem dropLast_answers (h : TransmitEnd start st events) : ∀ e ∈ events.dropLast, e.answer ≠ .fail := by
  cases h with
  | timedOut _ hquiet => exact fun e he => hquiet.answers e (List.mem_of_mem_dropLast he)
  | failed _ hquiet _ => rw [List.dropLast_concat]; exact hquiet.answers
  | completed _ hquiet _ => rw [List.dropLast_concat]; exact hquiet.answers

theorem transportError_iff (h : TransmitEnd start st events) :
    st = .transportError ↔ ∃ e, events.getLast? = some e ∧ e.answer = .fail := by
  cases h with
  | timedOut hst hquiet =>
    refine ⟨fun hte => by simp [hst] at hte, ?_⟩
    rintro ⟨e, hlast, hfail⟩
    exact absurd hfail (hquiet.answers e (List.mem_of_getLast? hlast))
  | failed hst _ _ => simp [hst]
  | completed hst _ hok => simp [hst, hok]

theorem status (h : TransmitEnd start st events) (hstart : start.isStartTx = true) :
    st = .ok ∧ startsTransmission events = true ∨
      st = .transportError ∨ (st = .fifoTimeout ∧ startsTransmission events = false) := by
  cases h with
  | timedOut hst hquiet => exact .inr (.inr ⟨hst, hquiet.starts⟩)
  | failed hst _ _ => exact .inr (.inl hst)
  | completed hst _ _ => exact .inl ⟨hst, by simp [hstart]⟩

theorem start_last (h : TransmitEnd start st events) (hstarts : startsTransmission events = true) :
    ∃ (before : List Event) (answer : Response), startsTransmission before = false ∧
      events = before ++ [⟨start, answer⟩] ∧ (st = .ok ↔ answer ≠ .fail) := by
  cases h with
  | timedOut _ hquiet => simp [hquiet.starts] at hstarts
  | @failed before tx hst hquiet htx =>
    obtain rfl : tx = start := htx (by simpa [hquiet.starts] using hstarts)
    exact ⟨before, .fail, hquiet.starts, rfl, by simp [hst]⟩
  | @completed before answer hst hquiet hok => exact ⟨before, answer, hquiet.starts, rfl, by simp [hst, hok]⟩

end TransmitEnd

/-- The framing constant of rule R201, in the words of the statements. -/
theorem framingConstant_of_framingOf {framecount : BitVec 16} {f : Framing} (h : framingOf framecount = some f) :
    framingConstant framecount.toNat = some (framingCode f) := by
  unfold framingOf at h
  split_ifs at h <;> cases h <;> subst framecount <;> rfl

/-- The checks of rule R202 end a TRANSMIT with no transaction; past them the initial write comes next. -/
theorem startTransmitOperation_starts (paddr : BitVec 24) (len framecount : BitVec 16) (s : State) :
    ((startTransmitOperation paddr len framecount s).seq = .idle ∧
      (startTransmitOperation paddr len framecount s).trace = s.trace) ∨
    (∃ f, framingOf framecount = some f ∧
      startTransmitOperation paddr len framecount s = s.setSeq (.txFirst ⟨paddr, len, framingCode f⟩)) := by
  obtain ⟨_, heq⟩ | ⟨_, _, heq⟩ | ⟨_, _, _, heq⟩ | ⟨f, _, _, hf, ⟨_, heq⟩ | ⟨_, heq⟩⟩ :=
    startTransmitOperation_cases paddr len framecount s
  · exact .inl (by simp [heq])
  · exact .inl (by simp [heq])
  · exact .inl (by simp [heq])
  · exact .inl (by simp [heq])
  · exact .inr ⟨f, hf, heq⟩

/-- A TRANSMIT that has issued anything passed its checks and has run to one of its ends. -/
theorem exec_transmit_end {s t : State} {paddr : BitVec 24} {len framecount : BitVec 16} {events : List Event}
    (h : exec (.transmit paddr len framecount) s = .next t) (htrace : t.trace = s.trace ++ events) (hne : events ≠ []) :
    ∃ code, framingConstant framecount.toNat = some code ∧
      TransmitEnd (startTransmit ⟨paddr, len, code⟩ s) t.status events := by
  have hgrown : t.trace ≠ s.trace := by simp [htrace, hne]
  obtain ⟨_, ⟨st, _, rfl⟩ | ⟨_, hrun⟩⟩ := exec_cases h
  · exact absurd rfl hgrown
  · obtain ⟨hidle, hsame⟩ | ⟨f, hf, hstart⟩ := startTransmitOperation_starts paddr len framecount s
    · obtain rfl : startTransmitOperation paddr len framecount s = t := by
        simpa only [startOf, runToEnd_of_idle hidle, Host.Outcome.next.injEq] using hrun
      exact absurd hsame hgrown
    · refine ⟨framingCode f, framingConstant_of_framingOf hf, ?_⟩
      have hat : TransmitAt ⟨paddr, len, framingCode f⟩ s (startTransmitOperation paddr len framecount s) := by
        rw [hstart]
        exact .running [] rfl rfl rfl (by simp) quiet_nil
      cases runToEnd_keeps (fun _ _ => transmitAt_advance) hat hrun with
      | running _ hjob _ _ _ _ => rw [runToEnd_idle hrun] at hjob; cases hjob
      | ended issued _ hissued hend =>
        obtain rfl : issued = events := List.append_cancel_left (hissued.symm.trans htrace)
        exact hend

/-- Settles O40: each part of the statement is a property of `TransmitEnd`. -/
theorem startTransmitComesLast : Obligations.StartTransmitComesLast := by
  intro s t paddr len framecount events _ _ h htrace hne
  obtain ⟨code, hcode, hend⟩ := exec_transmit_end h htrace hne
  refine ⟨hend.dropLast_answers, hend.transportError_iff, hend.status rfl, fun hstarts => ?_⟩
  obtain ⟨before, answer, hbefore, hevents, hok⟩ := hend.start_last hstarts
  exact ⟨before, code, answer, hcode, hbefore, hevents, hok⟩

end Sys2Proof.Machine
end

section
/-!
PROOF. Of PMEM a TRANSMIT reads its payload alone: over a memory that agrees there, the two runs go in step.
-/

namespace Sys2Proof.Machine

/-! ### Runs in step -/

/-- A change `f` of the state that leaves the position alone, and with which every transaction taken inside `P` commutes,
commutes with a run. -/
theorem settle_map {P : State → Prop} {f : State → State} (hseq : ∀ u, (f u).seq = u.seq)
    (hstep : ∀ u v, u.seq ≠ .idle → P u → advance u = .next v → P v ∧ advance (f u) = .next (f v)) :
    ∀ (n : Nat) (u v : State), P u → settle n u = .next v → settle n (f u) = .next (f v) := by
  intro n
  induction n with
  | zero => intro u v _ h; cases h; rfl
  | succ n ih =>
    intro u v hp h
    by_cases hidle : u.seq = .idle
    · rw [settle_of_idle hidle] at h
      cases h
      exact settle_of_idle ((hseq u).trans hidle)
    · rw [settle_of_busy hidle] at h
      cases ha : advance u with
      | next w =>
        rw [ha] at h
        obtain ⟨hpw, hfw⟩ := hstep u w hidle hp ha
        have hbusy : (f u).seq ≠ .idle := by rwa [hseq]
        rw [settle_advance hbusy hfw]
        exact ih w v hpw h
      | fault r => rw [ha] at h; cases h
      | refused r => rw [ha] at h; cases h

/-! ### One transaction over another memory -/

/-- No answer of the transport depends on PMEM (20_memory.md rule R57). -/
@[simp] theorem State.answerTo_setPmem (u : State) (m : Memory) (tx : Transaction) :
    (u.setPmem m).answerTo tx = u.answerTo tx := rfl

@[simp] theorem transmitLoop_setPmem (job : TxJob) (sent : Nat) (m : Memory) (u : State) :
    transmitLoop job sent (u.setPmem m) = (transmitLoop job sent u).setPmem m := by
  obtain ⟨hlt, heq⟩ | ⟨hge, heq⟩ := transmitLoop_cases job sent u <;> rw [heq]
  · exact if_pos hlt
  · exact if_neg (Nat.not_lt.mpr hge)

/-- The memory `m` reads as that of `u` over the payload of `job`. -/
def PayloadAgrees (m : Memory) (job : TxJob) (u : State) : Prop :=
  ∀ a : Nat, job.paddr.toNat ≤ a → a < job.paddr.toNat + job.len.toNat → m.read a = u.pmem.read a

section
variable {m : Memory} {job : TxJob} {u v : State}

/-- A FIFO write inside the payload finds the same bytes, and the bound check does not look at the contents. -/
theorem PayloadAgrees.memRead_eq (h : PayloadAgrees m job u) {sent n : Nat} (hn : n ≤ job.len.toNat - sent) :
    memRead m (job.paddr.toNat + sent) n = memRead u.pmem (job.paddr.toNat + sent) n := by
  have hbytes : m.bytes (job.paddr.toNat + sent) n = u.pmem.bytes (job.paddr.toNat + sent) n := by
    refine List.map_congr_left fun i hi => h _ (by omega) ?_
    have hin : i < n := List.mem_range.mp hi
    omega
  rw [memRead, memRead, hbytes]

theorem advanceWrite_setPmem (h : PayloadAgrees m job u) {sent n : Nat} (hn : n ≤ job.len.toNat - sent)
    (ha : advanceWrite job sent n u = .next v) : advanceWrite job sent n (u.setPmem m) = .next (v.setPmem m) := by
  unfold advanceWrite at ha ⊢
  rw [State.setPmem_pmem, h.memRead_eq hn]
  cases hread : memRead u.pmem (job.paddr.toNat + sent) n with
  | none => simp [hread] at ha
  | some bytes =>
    cases hanswer : u.answerTo (.writeFifo bytes) with
    | fail =>
      simp only [hread, hanswer] at ha
      cases ha
      simp only [State.answerTo_setPmem, hanswer]
      rfl
    | ok resp =>
      simp only [hread, hanswer] at ha
      cases ha
      simp only [State.answerTo_setPmem, hanswer, ← transmitLoop_setPmem]
      rfl

theorem advancePoll_setPmem (m : Memory) (job : TxJob) (sent polls : Nat) (u : State) :
    advancePoll job sent polls (u.setPmem m) = (advancePoll job sent polls u).setPmem m := by
  unfold advancePoll
  rw [State.answerTo_setPmem]
  cases u.answerTo .readFifoFreeSpace with
  | fail => rfl
  | ok bytes =>
    simp only [apply_ite (State.setPmem m)]
    rfl

theorem advanceStart_setPmem (m : Memory) (job : TxJob) (u : State) :
    advanceStart job (u.setPmem m) = (advanceStart job u).setPmem m := by
  have hstart : startTransmit job (u.setPmem m) = startTransmit job u := rfl
  unfold advanceStart
  simp only [hstart, State.answerTo_setPmem]
  cases u.answerTo (startTransmit job u) with
  | fail => rfl
  | ok resp => rfl

/-- A transaction of a running TRANSMIT is the same over every memory that agrees on the payload: each write lies inside
it (rules R203, R205). -/
theorem advance_setPmem (hjob : u.seq.job? = some job) (h : PayloadAgrees m job u) (ha : advance u = .next v) :
    advance (u.setPmem m) = .next (v.setPmem m) := by
  unfold advance at ha ⊢
  rw [State.setPmem_seq]
  cases hs : u.seq with
  | txFirst _ =>
    rw [hs] at ha hjob; cases hjob
    exact advanceWrite_setPmem h (Nat.min_le_left _ _) ha
  | txChunk _ sent =>
    rw [hs] at ha hjob; cases hjob
    exact advanceWrite_setPmem h (Nat.min_le_right _ _) ha
  | txPoll _ sent polls =>
    rw [hs] at ha hjob; cases hjob; cases ha
    exact congrArg Host.Outcome.next (advancePoll_setPmem m job sent polls u)
  | txStart _ =>
    rw [hs] at ha hjob; cases hjob; cases ha
    exact congrArg Host.Outcome.next (advanceStart_setPmem m job u)
  | _ => rw [hs] at hjob; cases hjob

end

/-! ### The whole operation -/

/-- The operation has ended, or it is a TRANSMIT over whose payload the memory `m` reads as that of `u`. -/
def TransmitReadsAlike (m : Memory) (u : State) : Prop :=
  u.seq = .idle ∨ ∃ job, u.seq.job? = some job ∧ PayloadAgrees m job u

theorem transmitReadsAlike_advance {m : Memory} {u v : State} (hbusy : u.seq ≠ .idle) (h : TransmitReadsAlike m u)
    (ha : advance u = .next v) : TransmitReadsAlike m v ∧ advance (u.setPmem m) = .next (v.setPmem m) := by
  obtain ⟨job, hjob, hagrees⟩ := h.resolve_left hbusy
  refine ⟨?_, advance_setPmem hjob hagrees ha⟩
  obtain hon | hidle := (advance_transmitStep hjob ha).job?_or_idle
  · refine .inr ⟨job, hon, fun a hlo hhi => ?_⟩
    rw [(advance_untouched ha).pmem]
    exact hagrees a hlo hhi
  · exact .inl hidle

theorem runToEnd_setPmem {m : Memory} {u v : State} (h : TransmitReadsAlike m u) (hrun : runToEnd u = .next v) :
    runToEnd (u.setPmem m) = .next (v.setPmem m) :=
  settle_map (f := State.setPmem m) (fun _ => rfl) (fun _ _ => transmitReadsAlike_advance) (remaining u) u v h hrun

theorem startTransmitOperation_setPmem (paddr : BitVec 24) (len framecount : BitVec 16) (m : Memory) (s : State) :
    startTransmitOperation paddr len framecount (s.setPmem m) =
      (startTransmitOperation paddr len framecount s).setPmem m := by
  unfold startTransmitOperation
  rw [State.setPmem_cfg]
  split
  · rfl
  split
  · rfl
  split
  · rfl
  · split <;> rfl

/-- Settles O55: the checks do not look at PMEM, and from the initial write on the two runs go in step. -/
theorem transmitReadsOnlyItsPayload : Obligations.TransmitReadsOnlyItsPayload := by
  intro s t m paddr len framecount hagrees h
  change exec (.transmit paddr len framecount) (s.setPmem m) = .next (t.setPmem m)
  obtain ⟨hidle, ⟨st, hguard, rfl⟩ | ⟨hguard, hrun⟩⟩ := exec_cases h
  · exact exec_guarded (s := s.setPmem m) hidle hguard
  · have hstart : TransmitReadsAlike m (startTransmitOperation paddr len framecount s) := by
      obtain ⟨hended, _⟩ | ⟨f, _, heq⟩ := startTransmitOperation_starts paddr len framecount s
      · exact .inl hended
      · rw [heq]
        exact .inr ⟨_, rfl, hagrees⟩
    rw [exec_runs (s := s.setPmem m) hidle hguard, startOf, startTransmitOperation_setPmem]
    exact runToEnd_setPmem hstart hrun

end Sys2Proof.Machine
end

section
/-!
PROOF. The decoder and the encoder of 30_encoding.md: when a word decodes to an operation, that the two are inverse, which
words are illegal, and the byte order of a written word.
-/

namespace Sys2Proof

/-! ### The decoder, said once -/

/-- A word decodes to an operation when its top byte selects the opcode and no reserved bit of the format is set (rule
R75). -/
theorem decode_of_opcode {w : Word} {o : Opcode} (hopc : fieldOpc w = o.byte) :
    decode w = if reservedClear o.format w then .op (o.operation w) else .illegal .reservedBits := by
  simp [decode, hopc, Laws.ofByte_byte]

theorem decode_cases (w : Word) :
    (Opcode.ofByte (fieldOpc w) = none ∧ decode w = .illegal .unknownOpcode) ∨
    (∃ o : Opcode, fieldOpc w = o.byte ∧
      ((reservedClear o.format w = true ∧ decode w = .op (o.operation w)) ∨
       (reservedClear o.format w = false ∧ decode w = .illegal .reservedBits))) := by
  cases hbyte : Opcode.ofByte (fieldOpc w) with
  | none => exact .inl ⟨rfl, by simp [decode, hbyte]⟩
  | some o =>
    have hopc : fieldOpc w = o.byte := Laws.ofByte_eq_some hbyte
    refine .inr ⟨o, hopc, ?_⟩
    rw [decode_of_opcode hopc]
    cases hclear : reservedClear o.format w with
    | true => exact .inl ⟨rfl, rfl⟩
    | false => exact .inr ⟨rfl, rfl⟩

/-! ### Decoding an encoded operation -/

/-- The low 56 bits of an operation's word are its operand bits, so a field inside them is read from these. -/
theorem extractLsb'_encode {i : Instr} {start len : Nat} (h : start + len ≤ 56) :
    (encode i).extractLsb' start len = i.operandBits.extractLsb' start len :=
  BitVec.extractLsb'_append_eq_of_add_le h

theorem fieldOpc_encode (i : Instr) : fieldOpc (encode i) = i.opcode.byte := Laws.fieldOpc_append _ _

theorem reservedClear_encode (i : Instr) : reservedClear i.opcode.format (encode i) = true := by
  cases i with
  | reset => decide
  | configure => decide
  | verify => decide
  | applyFrequency freqHz adj => rfl
  | transmit paddr len framecount => rfl
  | setDataRate bps => exact decide_eq_true ((extractLsb'_encode (by omega)).trans BitVec.extractLsb'_append_eq_left)
  | setFrequency v | setModulation v | setPower v | adjustCrystal v =>
    exact decide_eq_true ((extractLsb'_encode (by omega)).trans BitVec.extractLsb'_append_eq_left)

/-- Every operand is read back from the field it was put into (rule R72). -/
theorem operation_encode (i : Instr) : i.opcode.operation (encode i) = i := by
  cases i with
  | reset => rfl
  | configure => rfl
  | verify => rfl
  | setFrequency v | setDataRate v | setModulation v | setPower v | adjustCrystal v =>
    exact congrArg _ ((extractLsb'_encode (by omega)).trans BitVec.extractLsb'_append_eq_right)
  | applyFrequency freqHz adj =>
    exact congrArg₂ _ ((extractLsb'_encode (by omega)).trans BitVec.extractLsb'_append_eq_right)
      ((extractLsb'_encode (by omega)).trans BitVec.extractLsb'_append_eq_left)
  | transmit paddr len framecount =>
    have hlen : fieldLen (encode (.transmit paddr len framecount)) = len :=
      (extractLsb'_encode (by omega)).trans BitVec.extractLsb'_append_eq_right
    have hframecount : fieldFramecount (encode (.transmit paddr len framecount)) = framecount :=
      (extractLsb'_encode (by omega)).trans
        ((BitVec.extractLsb'_append_eq_of_le le_rfl).trans BitVec.extractLsb'_append_eq_right)
    have hpaddr : fieldPaddr (encode (.transmit paddr len framecount)) = paddr :=
      (extractLsb'_encode (by omega)).trans
        ((BitVec.extractLsb'_append_eq_of_le (by omega)).trans BitVec.extractLsb'_append_eq_left)
    simp only [Instr.opcode, Opcode.operation, hlen, hframecount, hpaddr]

theorem decode_encode (i : Instr) : decode (encode i) = .op i := by
  rw [decode_of_opcode (fieldOpc_encode i), if_pos (reservedClear_encode i), operation_encode]

/-! ### Encoding a decoded word -/

@[simp] theorem opcode_operation (o : Opcode) (w : Word) : (o.operation w).opcode = o := by
  cases o <;> rfl

/-- With the reserved bits clear, the operands are all that stands below the opcode (rules R72, R76). -/
theorem operandBits_operation {o : Opcode} {w : Word} (h : reservedClear o.format w = true) :
    (o.operation w).operandBits = w.extractLsb' 0 56 := by
  cases o with
  | reset => exact (of_decide_eq_true h).symm
  | configure => exact (of_decide_eq_true h).symm
  | verify => exact (of_decide_eq_true h).symm
  | setFrequency | setModulation | setPower | adjustCrystal =>
    calc 0#48 ++ fieldB8 w = w.extractLsb' 8 48 ++ fieldB8 w := by rw [of_decide_eq_true h]
      _ = w.extractLsb' 0 56 := BitVec.extractLsb'_append_extractLsb'_eq_extractLsb' rfl
  | setDataRate =>
    calc 0#40 ++ fieldH16 w = w.extractLsb' 16 40 ++ fieldH16 w := by rw [of_decide_eq_true h]
      _ = w.extractLsb' 0 56 := BitVec.extractLsb'_append_extractLsb'_eq_extractLsb' rfl
  | applyFrequency => exact BitVec.extractLsb'_append_extractLsb'_eq_extractLsb' rfl
  | transmit =>
    calc fieldPaddr w ++ fieldFramecount w ++ fieldLen w
        = w.extractLsb' 16 40 ++ fieldLen w :=
          congrArg (· ++ fieldLen w) (BitVec.extractLsb'_append_extractLsb'_eq_extractLsb' rfl)
      _ = w.extractLsb' 0 56 := BitVec.extractLsb'_append_extractLsb'_eq_extractLsb' rfl

theorem encode_operation {o : Opcode} {w : Word} (hopc : fieldOpc w = o.byte) (h : reservedClear o.format w = true) :
    encode (o.operation w) = w := by
  calc encode (o.operation w) = o.byte ++ (o.operation w).operandBits := by rw [encode, opcode_operation]
    _ = fieldOpc w ++ w.extractLsb' 0 56 := by rw [operandBits_operation h, hopc]
    _ = w.extractLsb' 0 64 := BitVec.extractLsb'_append_extractLsb'_eq_extractLsb' rfl
    _ = w := BitVec.extractLsb'_eq_self

/-- A word decodes to an operation exactly when it is the operation's encoding. -/
theorem decode_eq_op_iff {w : Word} {i : Instr} : decode w = .op i ↔ encode i = w := by
  constructor
  · intro h
    obtain ⟨_, hw⟩ | ⟨o, hopc, ⟨hclear, hw⟩ | ⟨_, hw⟩⟩ := decode_cases w <;> rw [hw] at h <;> cases h
    exact encode_operation hopc hclear
  · rintro rfl
    exact decode_encode i

/-! ### The illegal words -/

/-- The opcodes in the order of rule R74. -/
def opcodes : List Opcode :=
  [.reset, .configure, .verify, .setFrequency, .applyFrequency, .setDataRate, .setModulation, .setPower, .adjustCrystal,
    .transmit]

theorem mem_opcodes (o : Opcode) : o ∈ opcodes := by
  cases o <;> decide

theorem legalOpcodes_eq : Machine.legalOpcodes = opcodes.map fun o => o.byte.toNat := rfl

theorem fieldOpc_toNat (w : Word) : (fieldOpc w).toNat = w.toNat / 2 ^ 56 := by
  rw [fieldOpc, BitVec.extractLsb'_toNat, Nat.shiftRight_eq_div_pow]
  omega

/-- A field that reaches from bit `start` up to the opcode is zero exactly when the operand bits from there on are. -/
theorem extractLsb'_eq_zero_iff (w : Word) {start len : Nat} (h : start + len = 56) :
    w.extractLsb' start len = 0#len ↔ w.toNat % 2 ^ 56 / 2 ^ start = 0 := by
  rw [← BitVec.toNat_inj, BitVec.extractLsb'_toNat, Nat.shiftRight_eq_div_pow, BitVec.toNat_ofNat, Nat.zero_mod, ← h,
    Nat.pow_add, Nat.mod_mul_right_div_self]

/-- What the format leaves reserved is clear: `illegalWord` says it of the word as a number (rules R72, R76). -/
theorem illegalWord_of_opcode {w : Word} {o : Opcode} (hopc : fieldOpc w = o.byte) :
    Machine.illegalWord w.toNat = !reservedClear o.format w := by
  have hdiv : w.toNat / 2 ^ 56 = o.byte.toNat := by rw [← fieldOpc_toNat, hopc]
  have hn := extractLsb'_eq_zero_iff w (start := 0) (len := 56) rfl
  have hb := extractLsb'_eq_zero_iff w (start := 8) (len := 48) rfl
  have hh := extractLsb'_eq_zero_iff w (start := 16) (len := 40) rfl
  rw [Nat.pow_zero, Nat.div_one] at hn
  cases o <;>
    simp only [Machine.illegalWord, hdiv, Opcode.format, reservedClear, hn, hb, hh] <;>
    simp [Machine.legalOpcodes, Opcode.byte, -Nat.div_eq_zero_iff]

theorem illegalWord_of_unknown {w : Word} (h : Opcode.ofByte (fieldOpc w) = none) :
    Machine.illegalWord w.toNat = true := by
  have hnot : w.toNat / 2 ^ 56 ∉ Machine.legalOpcodes := by
    rw [legalOpcodes_eq, ← fieldOpc_toNat, List.mem_map]
    rintro ⟨o, _, ho⟩
    rw [← BitVec.eq_of_toNat_eq ho, Laws.ofByte_byte] at h
    cases h
  rw [← List.contains_iff_mem, Bool.not_eq_true] at hnot
  simp only [Machine.illegalWord, hnot, Bool.not_false, Bool.true_or]

theorem decode_illegal_iff (w : Word) : (∃ why, decode w = .illegal why) ↔ Machine.illegalWord w.toNat = true := by
  obtain ⟨hbyte, hw⟩ | ⟨o, hopc, ⟨hclear, hw⟩ | ⟨hset, hw⟩⟩ := decode_cases w
  · simp [hw, illegalWord_of_unknown hbyte]
  · simp [hw, illegalWord_of_opcode hopc, hclear]
  · simp [hw, illegalWord_of_opcode hopc, hset]

/-! ### The bytes of a written word -/

theorem beNat_bytesOfWord (w : Word) : Machine.beNat (bytesOfWord w) = w.toNat := by
  simp only [Machine.beNat, bytesOfWord, List.foldl_cons, List.foldl_nil, BitVec.extractLsb'_toNat,
    Nat.shiftRight_eq_div_pow]
  omega

/-- The word that eight bytes are is the number they are read as (rules R55, R70). -/
theorem toNat_of_wordOfBytes {bs : List Byte} {w : Word} (h : wordOfBytes bs = some w) : w.toNat = Machine.beNat bs := by
  unfold wordOfBytes at h
  split at h
  · cases h
    simp only [Laws.toNat_append, Machine.beNat, List.foldl_cons, List.foldl_nil]
    omega
  · cases h

theorem wordOfBytes_bytesOfWord (w : Word) : wordOfBytes (bytesOfWord w) = some w := by
  obtain ⟨v, hv⟩ : ∃ v, wordOfBytes (bytesOfWord w) = some v := ⟨_, rfl⟩
  rw [hv, BitVec.eq_of_toNat_eq ((toNat_of_wordOfBytes hv).trans (beNat_bytesOfWord w))]

/-! ### The table's numbering of the bits -/

@[simp] theorem tableWord_toNat (w : Word) : tableWord 64 w.toNat = w := by
  rw [tableWord, Nat.mod_eq_of_lt w.isLt, BitVec.ofNat_toNat, BitVec.setWidth_eq]

theorem tableWord_eq_ofNat (w : Nat) : tableWord 64 w = BitVec.ofNat 64 w :=
  BitVec.eq_of_toNat_eq (by simp [tableWord])

@[simp] theorem Decoded.instr?_eq_some {d : Decoded} {i : Instr} : d.instr? = some i ↔ d = .op i := by
  cases d <;> simp [Decoded.instr?]

theorem decodeTableWord_toNat (w : Word) : decodeTableWord 64 w.toNat = (decode w).instr? := by
  rw [decodeTableWord, tableWord_toNat, decodeBytes, wordOfBytes_bytesOfWord]
  rfl

/-! ### What is settled of them -/

/-- Settles O1. -/
theorem decodeEncodeRoundTrip : Obligations.DecodeEncodeRoundTrip := decode_encode

/-- Settles O2. -/
theorem decodedWordIsTheEncoding : Obligations.DecodedWordIsTheEncoding := fun _ _ => decode_eq_op_iff.mp

/-- Settles O3. -/
theorem illegalWordsAreExactlyThese : Obligations.IllegalWordsAreExactlyThese := decode_illegal_iff

/-- Settles O4: each word is the encoding of its operation. -/
theorem writtenWordsDecode : Obligations.WrittenWordsDecode :=
  ⟨decode_eq_op_iff.mpr rfl, decode_eq_op_iff.mpr rfl, decode_eq_op_iff.mpr rfl, decode_eq_op_iff.mpr rfl,
    decode_eq_op_iff.mpr rfl, decode_eq_op_iff.mpr rfl, decode_eq_op_iff.mpr rfl, decode_eq_op_iff.mpr rfl⟩

/-- Settles O5. -/
theorem wordBytesAreBigEndian : Obligations.WordBytesAreBigEndian :=
  fun w => ⟨⟨beNat_bytesOfWord w, rfl⟩, wordOfBytes_bytesOfWord w⟩

/-- Settles O12: the word's bytes are laid out and read back, then decoded. -/
theorem tableWordDecodesAsTheWord : Obligations.TableWordDecodesAsTheWord := fun w i => by
  rw [decodeTableWord_toNat, Decoded.instr?_eq_some]

end Sys2Proof
end

section
/-!
PROOF. The assembler's lines (30_encoding.md rules R79 to R81): the words of a line in range decode to its operations, and
every operand keeps its value in its field.
-/

namespace Sys2Proof.Machine

theorem assemble_of_wf {l : Line} (h : l.wf = true) : assemble l = some ((lineOperations l).map encode) := if_pos h

theorem assemble_of_not_wf {l : Line} (h : l.wf = false) : assemble l = none := if_neg (by simp [h])

theorem map_decode_encode (is : List Instr) : (is.map encode).map decode = is.map Decoded.op := by
  rw [List.map_map]
  exact List.map_congr_left fun i _ => decode_encode i

/-! ### What the ranges of rule R79 say -/

theorem applyFrequency_wf_iff {f : Nat} {a : Int} :
    (Line.applyFrequency f a).wf = true ↔ f ≤ 4294967295 ∧ -8388608 ≤ a ∧ a ≤ 8388607 := by
  simp only [Line.wf, Bool.and_eq_true, decide_eq_true_eq, and_assoc]

theorem adjustCrystal_wf_iff {a : Int} : (Line.adjustCrystal a).wf = true ↔ -128 ≤ a ∧ a ≤ 127 := by
  simp only [Line.wf, Bool.and_eq_true, decide_eq_true_eq]

theorem transmit_wf_iff {p n k : Nat} :
    (Line.transmit p n k).wf = true ↔ p ≤ 0xFFFFFF ∧ n ≤ 65535 ∧ k ≤ 65535 := by
  simp only [Line.wf, Bool.and_eq_true, decide_eq_true_eq, and_assoc]

/-- A number in the range of a field is the field's value. -/
theorem toNat_ofNat_of_le {w n max : Nat} (hmax : max < 2 ^ w) (h : n ≤ max) : (BitVec.ofNat w n).toNat = n := by
  rw [BitVec.toNat_ofNat, Nat.mod_eq_of_lt (h.trans_lt hmax)]

/-- Settles O6: `map_decode_encode` for the words, and for each operand that its range fits its field. -/
theorem assembledLinesDecode : Obligations.AssembledLinesDecode := by
  refine ⟨fun l hl => ⟨_, assemble_of_wf hl, map_decode_encode _⟩, fun l => assemble_of_not_wf, fun f a h => ?_,
    fun a h => ?_, fun p n k h => ?_, fun c h => ?_, fun b h => ?_, fun m h => ?_, ⟨rfl, rfl, rfl, rfl⟩, fun v h => ?_,
    rfl, rfl, rfl⟩
  · obtain ⟨hf, hlo, hhi⟩ := applyFrequency_wf_iff.mp h
    exact ⟨_, _, rfl, toNat_ofNat_of_le (by decide) hf, BitVec.toInt_ofInt_eq_self (by decide) hlo (by omega)⟩
  · obtain ⟨hlo, hhi⟩ := adjustCrystal_wf_iff.mp h
    exact ⟨_, rfl, BitVec.toInt_ofInt_eq_self (by decide) hlo (by omega)⟩
  · obtain ⟨hp, hn, hk⟩ := transmit_wf_iff.mp h
    exact ⟨_, _, _, rfl, toNat_ofNat_of_le (by decide) hp, toNat_ofNat_of_le (by decide) hn,
      toNat_ofNat_of_le (by decide) hk⟩
  · exact ⟨_, rfl, toNat_ofNat_of_le (by decide) (of_decide_eq_true h)⟩
  · exact ⟨_, rfl, toNat_ofNat_of_le (by decide) (of_decide_eq_true h)⟩
  · exact ⟨_, rfl, toNat_ofNat_of_le (by decide) (of_decide_eq_true h)⟩
  · exact ⟨_, rfl, toNat_ofNat_of_le (by decide) (of_decide_eq_true h)⟩

/-- Settles O7. -/
theorem bootExpandsToThreeWords : Obligations.BootExpandsToThreeWords := assemble_of_wf (l := .boot) rfl

end Sys2Proof.Machine
end

section
/-!
PROOF. One step of an idle block: the operation or the illegal word that the host's next word is (30_encoding.md rule R77).
-/

namespace Sys2Proof.Machine

/-- Settles O8. -/
theorem stepRunsDecodedOperation : Obligations.StepRunsDecodedOperation := fun _ _ _ _ => step_of_op

theorem length_illegal_opcodes : ((List.range 256).filter fun opc => !legalOpcodes.contains opc).length = 246 := by
  decide +kernel

/-- Settles O9: an illegal word decodes to none, and the step raises `IllegalOperation` on the block as it was. -/
theorem illegalWordEndsAtOnce : Obligations.IllegalWordEndsAtOnce := by
  refine ⟨length_illegal_opcodes, rfl, fun s w rest hidle hprog hillegal => ?_⟩
  obtain ⟨why, hdecode⟩ := (decode_illegal_iff w).mpr hillegal
  rw [step_of_illegal hidle hprog hdecode, State.raise, State.finish, State.setProgram, hidle]

/-- Settles O11: `withFetchWord` leaves an idle block whose next word is the placed one. -/
theorem placedWordRunsNext : Obligations.PlacedWordRunsNext := by
  intro s w i hdecode
  have hprog : (s.withFetchWord 64 w).program = tableWord 64 w :: s.program.tail := rfl
  rw [step_of_op rfl hprog (tableWord_eq_ofNat w ▸ hdecode)]
  rfl

end Sys2Proof.Machine
end

section
/-!
PROOF. The boot sequence (30_encoding.md rule R80): what RESET, CONFIGURE and VERIFY leave when every transaction succeeds,
and the three in a row.
-/

namespace Sys2Proof.Machine

/-! ### Several transactions, one after the other -/

/-- The state after these transactions in order, whatever they are answered. -/
def State.transactAll (txs : List Transaction) (s : State) : State := txs.foldl (fun u tx => u.transact tx) s

section
variable {s : State}

@[simp] theorem State.transactAll_nil : s.transactAll [] = s := rfl

@[simp] theorem State.transactAll_cons (tx : Transaction) (txs : List Transaction) :
    s.transactAll (tx :: txs) = (s.transact tx).transactAll txs := rfl

@[simp] theorem State.answerAt_transactAll (txs : List Transaction) (n : Nat) (tx : Transaction) :
    (s.transactAll txs).answerAt n tx = s.answerAt (n + txs.length) tx := by
  induction txs generalizing s with
  | nil => rfl
  | cons t txs ih => rw [transactAll_cons, ih, answerAt_transact, List.length_cons, Nat.add_assoc]

theorem State.transactAll_setSeq (txs : List Transaction) (v : Sequencer) :
    (s.setSeq v).transactAll txs = (s.transactAll txs).setSeq v := by
  induction txs generalizing s with
  | nil => rfl
  | cons t txs ih => exact ih (s := s.transact t)

@[simp] theorem State.transactAll_trace_length (txs : List Transaction) :
    (s.transactAll txs).trace.length = s.trace.length + txs.length := by
  induction txs generalizing s with
  | nil => rfl
  | cons t txs ih =>
    rw [transactAll_cons, ih, transact_trace, List.length_append, List.length_singleton, List.length_cons]
    omega

/-! ### What each operation leaves when all its transactions are answered well -/

/-- After a RESET whose reset command succeeded (40_lifecycle.md rule R105). -/
def State.afterReset (s : State) : State := ((s.transact .reset).setLc .resetDone).complete

/-- After a CONFIGURE that wrote every entry of the table (rules R103, R106). -/
def State.afterConfigure (s : State) : State :=
  ((s.transactAll (s.cfg.params.cfgTable.map entryWrite)).setLc .configuring).complete

/-- After a VERIFY that read the expected part (rule R107). -/
def State.afterVerify (s : State) : State := ((s.transact .readPartInfo).setLc .ready).complete

@[simp] theorem State.answerAt_afterReset (n : Nat) (tx : Transaction) :
    s.afterReset.answerAt n tx = s.answerAt (n + 1) tx := s.answerAt_transact .reset tx n

@[simp] theorem State.answerAt_afterConfigure (n : Nat) (tx : Transaction) :
    s.afterConfigure.answerAt n tx = s.answerAt (n + s.cfg.params.cfgTable.length) tx := by
  rw [← List.length_map (as := s.cfg.params.cfgTable) entryWrite]
  exact s.answerAt_transactAll _ n tx

@[simp] theorem State.afterReset_trace_length : s.afterReset.trace.length = s.trace.length + 1 := by
  simp [afterReset]

@[simp] theorem State.afterConfigure_trace_length :
    s.afterConfigure.trace.length = s.trace.length + s.cfg.params.cfgTable.length := by
  simp [afterConfigure]

@[simp] theorem State.afterVerify_trace_length : s.afterVerify.trace.length = s.trace.length + 1 := by
  simp [afterVerify]

/-! ### Each operation, run -/

/-- An operation whose next transaction is its last. -/
theorem runToEnd_of_last {t : State} (hbusy : s.seq ≠ .idle) (ha : advance s = .next t) (hidle : t.seq = .idle) :
    runToEnd s = .next t :=
  (operationIsItsTransactionsInOrder s t hbusy ha).trans (runToEnd_of_idle hidle)

theorem exec_reset_of_ok {bytes : List Byte} (hidle : s.seq = .idle) (hanswer : s.answerAt 0 .reset = .ok bytes) :
    exec .reset s = .next s.afterReset := by
  rw [← State.answerTo_eq_answerAt, ← State.answerTo_setSeq s .reset] at hanswer
  rw [exec_runs (i := .reset) hidle (lifecycleGuard_reset _)]
  refine runToEnd_of_last (s := s.setSeq .reset) (by simp) ?_ rfl
  simp only [advance, State.setSeq_seq, advanceReset, hanswer]
  rfl

theorem exec_verify_of_match {hi lo : Byte} (hidle : s.seq = .idle) (hlc : s.lc = .configuring ∨ s.lc = .ready)
    (hanswer : s.answerAt 0 .readPartInfo = .ok [hi, lo]) (hpart : s.cfg.params.expectedPartId = hi ++ lo) :
    exec .verify s = .next s.afterVerify := by
  rw [← State.answerTo_eq_answerAt, ← State.answerTo_setSeq s .verify] at hanswer
  rw [exec_runs (i := .verify) hidle (lifecycleGuard_verify_iff.mpr hlc)]
  refine runToEnd_of_last (s := s.setSeq .verify) (by simp) ?_ rfl
  simp only [advance, State.setSeq_seq, advanceVerify, hanswer, partOf_pair, State.setSeq_cfg, hpart, if_true]
  rfl

/-- The loader's write of entry `i`, answered well (rule R103). -/
theorem advance_configure_of_ok {i : Nat} {e : CfgEntry} {bytes : List Byte} (hseq : s.seq = .configure i)
    (he : s.cfg.params.cfgTable[i]? = some e) (hanswer : s.answerAt 0 (entryWrite e) = .ok bytes) :
    advance s = .next (loadFrom (i + 1) (s.transact (entryWrite e))) := by
  rw [← State.answerTo_eq_answerAt] at hanswer
  simp only [advance, hseq, advanceConfigure, he, hanswer]

/-- The loader from entry `i` on writes the entries left, when each write is answered well (rules R103, R106). -/
theorem runToEnd_loadFrom_of_ok {entries : List CfgEntry} {i : Nat} (hentries : s.cfg.params.cfgTable.drop i = entries)
    (hanswers : ∀ n e, entries[n]? = some e → ∃ bytes, s.answerAt n (entryWrite e) = .ok bytes) :
    runToEnd (loadFrom i s) = .next ((s.transactAll (entries.map entryWrite)).setLc .configuring).complete := by
  induction entries generalizing i s with
  | nil =>
    have hlen : ¬ i < s.cfg.params.cfgTable.length := Nat.not_lt.mpr (List.drop_eq_nil_iff.mp hentries)
    rw [loadFrom, if_neg hlen]
    exact runToEnd_of_idle rfl
  | cons e rest ih =>
    have he : s.cfg.params.cfgTable[i]? = some e := by rw [← List.head?_drop, hentries]; rfl
    have hrest : s.cfg.params.cfgTable.drop (i + 1) = rest := by rw [← List.tail_drop, hentries]; rfl
    obtain ⟨hlt, _⟩ := List.getElem?_eq_some_iff.mp he
    obtain ⟨bytes, hanswer⟩ := hanswers 0 e rfl
    have hleft : ∀ n d, rest[n]? = some d →
        ∃ bytes, ((s.setSeq (.configure i)).transact (entryWrite e)).answerAt n (entryWrite d) = .ok bytes :=
      fun n d hd => by
        rw [State.answerAt_transact]
        exact hanswers (n + 1) d hd
    have hfirst := advance_configure_of_ok (s := s.setSeq (.configure i)) rfl he hanswer
    calc runToEnd (loadFrom i s)
        = runToEnd (s.setSeq (.configure i)) := by rw [loadFrom, if_pos hlt]
      _ = runToEnd (loadFrom (i + 1) ((s.setSeq (.configure i)).transact (entryWrite e))) :=
          operationIsItsTransactionsInOrder _ _ (by simp) hfirst
      _ = .next ((((s.transact (entryWrite e)).setSeq (.configure i)).transactAll
            (rest.map entryWrite)).setLc .configuring).complete := ih hrest hleft
      _ = .next ((s.transactAll ((e :: rest).map entryWrite)).setLc .configuring).complete := by
          rw [State.transactAll_setSeq]
          rfl

theorem exec_configure_of_ok (hidle : s.seq = .idle) (hlc : s.lc = .resetDone ∨ s.lc = .configuring ∨ s.lc = .ready)
    (hanswers : ∀ n e, s.cfg.params.cfgTable[n]? = some e → ∃ bytes, s.answerAt n (entryWrite e) = .ok bytes) :
    exec .configure s = .next s.afterConfigure := by
  rw [exec_runs (i := .configure) hidle (lifecycleGuard_configure_iff.mpr hlc)]
  exact runToEnd_loadFrom_of_ok List.drop_zero hanswers

end

/-- Settles O21: each operation begins where the one before it ended, so its transactions are answered as those of `s` are
from the next number on; the registers that none of the three writes are kept by `exec_runFrame`. -/
theorem bootSequenceReachesReady : Obligations.BootSequenceReachesReady := by
  intro s hi lo hidle hanswers hpartAnswer hpart
  have hreset : exec .reset s = .next s.afterReset := by
    obtain ⟨bytes, hanswer⟩ := hanswers 0 .reset (by omega)
    exact exec_reset_of_ok hidle hanswer
  obtain ⟨hframeReset, _⟩ := exec_runFrame hreset
  have hconfigure : exec .configure s.afterReset = .next s.afterReset.afterConfigure := by
    refine exec_configure_of_ok rfl (.inl rfl) fun n e he => ?_
    obtain ⟨hn, _⟩ := List.getElem?_eq_some_iff.mp he
    rw [hframeReset.cfg] at hn
    rw [State.answerAt_afterReset]
    exact hanswers (n + 1) _ (by omega)
  obtain ⟨hframeConfigure, _⟩ := exec_runFrame hconfigure
  have hverify : exec .verify s.afterReset.afterConfigure = .next s.afterReset.afterConfigure.afterVerify := by
    refine exec_verify_of_match (hi := hi) (lo := lo) rfl (.inl rfl) ?_ ?_
    · rw [State.answerAt_afterConfigure, State.answerAt_afterReset, hframeReset.cfg, Nat.zero_add, hpartAnswer]
    · rw [hframeConfigure.cfg, hframeReset.cfg, hpart]
  obtain ⟨hframeVerify, _⟩ := exec_runFrame hverify
  refine ⟨_, _, _, hreset, hconfigure, hverify, rfl, rfl, rfl, rfl, rfl, rfl, ?_, ?_, ?_⟩
  · rw [hframeVerify.curChannel nofun, hframeConfigure.curChannel nofun, hframeReset.curChannel nofun]
  · rw [hframeVerify.curDataRate nofun, hframeConfigure.curDataRate nofun, hframeReset.curDataRate nofun]
  · rw [State.afterVerify_trace_length, State.afterConfigure_trace_length, State.afterReset_trace_length,
      hframeReset.cfg]
    omega

end Sys2Proof.Machine
end

section
/-!
PROOF. The lifecycle guard and the end of an operation, in the words of the statements: `mayRun` for the guard's table, and
`State.endedWith` for what an operation leaves after the transactions it issued.
-/

namespace Sys2Proof.Machine

/-! ### The guard -/

/-- The guard answers by the table of 40_lifecycle.md rule R101. -/
theorem lifecycleGuard_guardClassOf (i : Instr) (lc : Lc) :
    lifecycleGuard (guardClassOf i) lc =
      if mayRun i lc then none else some (if lc = .halted then .halted else .notReady) := by
  cases i <;> cases lc <;> rfl

theorem lifecycleGuard_eq_none_iff {i : Instr} {lc : Lc} :
    lifecycleGuard (guardClassOf i) lc = none ↔ mayRun i lc = true := by
  simp [lifecycleGuard_guardClassOf]

theorem mayRun_halted {i : Instr} (hi : i ≠ .reset) : mayRun i .halted = false := by
  cases i with
  | reset => exact absurd rfl hi
  | _ => rfl

section
variable {s : State}

/-! ### The end of an operation -/

theorem State.finish_eq_endedWith (hidle : s.seq = .idle) (st : Status) (info : BitVec 16) :
    s.finish st info = s.endedWith st info [] := by
  simp [State.finish, State.endedWith, hidle]

/-- Transactions that are answered as the events say leave the events in the trace. -/
theorem State.finish_transactAll {events : List Event} (hidle : s.seq = .idle) (h : s.answersAs events) (st : Status)
    (info : BitVec 16) : (s.transactAll (events.map Event.tx)).finish st info = s.endedWith st info events := by
  induction events generalizing s with
  | nil => exact finish_eq_endedWith hidle st info
  | cons e rest ih =>
    obtain ⟨hanswer, hrest⟩ := (s.answersAs_cons e rest).mp h
    rw [List.map_cons, transactAll_cons, ih (s := s.transact e.tx) hidle hrest]
    simp [State.endedWith, hanswer, State.transact]

/-- The same for an operation that sets `LC` as it ends. -/
theorem State.setLc_finish_transactAll {events : List Event} (hidle : s.seq = .idle) (h : s.answersAs events) (lc : Lc)
    (st : Status) (info : BitVec 16) :
    ((s.transactAll (events.map Event.tx)).setLc lc).finish st info = (s.endedWith st info events).setLc lc :=
  congrArg (State.setLc lc) (finish_transactAll hidle h st info)

theorem State.answersAs_singleton {tx : Transaction} {answer : Response} (h : s.answerAt 0 tx = answer) :
    s.answersAs [⟨tx, answer⟩] :=
  (s.answersAs_cons ⟨tx, answer⟩ []).mpr ⟨(s.answerTo_eq_answerAt tx).trans h, answersAs_nil _⟩

/-- The end of an operation of one transaction. -/
theorem State.setLc_finish_transact {tx : Transaction} {answer : Response} (hidle : s.seq = .idle)
    (h : s.answerAt 0 tx = answer) (lc : Lc) (st : Status) (info : BitVec 16) :
    ((s.transact tx).setLc lc).finish st info = (s.endedWith st info [⟨tx, answer⟩]).setLc lc :=
  setLc_finish_transactAll hidle (answersAs_singleton h) lc st info

/-! ### An operation that may not run -/

theorem exec_of_not_mayRun {i : Instr} (hidle : s.seq = .idle) (hrun : mayRun i s.lc = false) :
    exec i s = .next s.guardedOut := by
  have hguard : lifecycleGuard (guardClassOf i) s.lc = some (if s.lc = .halted then .halted else .notReady) := by
    simp [lifecycleGuard_guardClassOf, hrun]
  rw [exec_guarded hidle hguard]
  exact congrArg Host.Outcome.next (s.finish_eq_endedWith hidle _ _)

/-- An operation that may run is its start, run to the end. -/
theorem exec_of_mayRun {i : Instr} (hidle : s.seq = .idle) (hrun : mayRun i s.lc = true) :
    exec i s = runToEnd (startOf i s) :=
  exec_runs hidle (lifecycleGuard_eq_none_iff.mpr hrun)

theorem exec_lc_of_not_mayRun {i : Instr} {t : State} (hrun : mayRun i s.lc = false) (h : exec i s = .next t) :
    t.lc = s.lc := by
  obtain ⟨hidle, _⟩ := exec_cases h
  rw [exec_of_not_mayRun hidle hrun] at h
  cases h
  rfl

/-- No operation but RESET leaves `HALTED` (40_lifecycle.md rule R105). -/
theorem exec_keeps_halted {i : Instr} {t : State} (hi : i ≠ .reset) (hlc : s.lc = .halted) (h : exec i s = .next t) :
    t.lc = .halted := by
  rw [← hlc]
  exact exec_lc_of_not_mayRun (hlc ▸ mayRun_halted hi) h

end

end Sys2Proof.Machine
end

section
/-!
PROOF. The statuses that an operation past its guard can end with: each position of the sequencer has its own, and none of
them is a status of the guard.
-/

namespace Sys2Proof.Machine

/-- The statuses of 60_exceptions.md rule R231 with which an operation ends past its guard. -/
def statusesPastGuard (i : Instr) : List Status :=
  (possibleStatuses i).filter fun st => decide (st ≠ .notReady) && decide (st ≠ .halted)

theorem statusesPastGuard_ne_guard {i : Instr} {st : Status} (h : st ∈ statusesPastGuard i) :
    st ≠ .notReady ∧ st ≠ .halted := by
  obtain ⟨_, hne⟩ := List.mem_filter.mp h
  simpa using hne

/-- The statuses with which the operation running at a position can still end. -/
@[simp] def Sequencer.statuses : Sequencer → List Status
  | .idle => []
  | .reset => [.ok, .transportError]
  | .configure _ => [.ok, .transportError]
  | .verify => [.ok, .transportError, .hardwareMismatch]
  | .property _ _ _ => [.ok, .transportError]
  | .dataRateRead _ => [.ok, .transportError, .dataRateOutOfRange]
  | .dataRateWrite _ _ => [.ok, .transportError]
  | .txFirst _ => [.ok, .transportError, .fifoTimeout]
  | .txPoll _ _ _ => [.ok, .transportError, .fifoTimeout]
  | .txChunk _ _ => [.ok, .transportError, .fifoTimeout]
  | .txStart _ => [.ok, .transportError, .fifoTimeout]

theorem Sequencer.statuses_of_job {v : Sequencer} {job : TxJob} (h : v.job? = some job) :
    v.statuses = [.ok, .transportError, .fifoTimeout] := by
  cases v with
  | txFirst _ | txPoll _ _ _ | txChunk _ _ | txStart _ => rfl
  | _ => cases h

/-- The operation running in `u` can end only with an `allowed` status, or has ended with one. -/
structure StatusWithin (allowed : List Status) (u : State) : Prop where
  running : u.seq.statuses ⊆ allowed
  ended : u.seq = .idle → u.status ∈ allowed

section
variable {allowed : List Status}

theorem statusWithin_finish (u : State) {st : Status} (info : BitVec 16) (h : st ∈ allowed) :
    StatusWithin allowed (u.finish st info) :=
  ⟨List.nil_subset allowed, fun _ => h⟩

theorem statusWithin_setSeq (u : State) {v : Sequencer} (hbusy : v ≠ .idle) (h : v.statuses ⊆ allowed) :
    StatusWithin allowed (u.setSeq v) :=
  ⟨h, fun hidle => absurd hidle hbusy⟩

theorem statusWithin_loadFrom (i : Nat) (u : State) (h : (Sequencer.configure i).statuses ⊆ allowed) :
    StatusWithin allowed (loadFrom i u) := by
  obtain ⟨_, heq⟩ | ⟨_, heq⟩ := loadFrom_cases i u <;> rw [heq]
  · exact statusWithin_setSeq u nofun h
  · exact statusWithin_finish (u.setLc .configuring) _ (h (by simp))

/-- One transaction of a TRANSMIT: the four positions have the same statuses. -/
theorem TransmitStep.statusWithin {job : TxJob} {u v : State} (h : TransmitStep job u v)
    (hallowed : [.ok, .transportError, .fifoTimeout] ⊆ allowed) : StatusWithin allowed v := by
  cases h with
  | goesOn tx q _ _ hq =>
    exact statusWithin_setSeq _ (by rintro rfl; cases hq) (Sequencer.statuses_of_job hq ▸ hallowed)
  | timesOut _ => exact statusWithin_finish _ _ (hallowed (by simp))
  | fails tx _ _ => exact statusWithin_finish _ _ (hallowed (by simp))
  | completes _ => exact statusWithin_finish _ _ (hallowed (by simp))

/-- A transaction ends the operation with a status of its position, or leads to a position with no other statuses. -/
theorem advance_statusWithin {u v : State} (h : StatusWithin allowed u) (ha : advance u = .next v) :
    StatusWithin allowed v := by
  have hrunning := h.running
  cases hjob : u.seq.job? with
  | some job => exact (advance_transmitStep hjob ha).statusWithin (Sequencer.statuses_of_job hjob ▸ hrunning)
  | none =>
    unfold advance at ha
    cases hs : u.seq with
    | idle => rw [hs] at ha; cases ha; exact h
    | reset =>
      rw [hs] at ha hrunning; cases ha
      obtain ⟨_, heq⟩ | ⟨_, _, heq⟩ := advanceReset_cases u <;> rw [heq] <;>
        exact statusWithin_finish _ _ (hrunning (by simp))
    | configure i =>
      rw [hs] at ha hrunning; cases ha
      obtain ⟨_, heq⟩ | ⟨e, _, ⟨_, heq⟩ | ⟨_, _, heq⟩⟩ := advanceConfigure_cases i u <;> rw [heq]
      · exact statusWithin_finish _ _ (hrunning (by simp))
      · exact statusWithin_finish _ _ (hrunning (by simp))
      · exact statusWithin_loadFrom (i + 1) _ hrunning
    | verify =>
      rw [hs] at ha hrunning; cases ha
      obtain ⟨_, heq⟩ | ⟨_, _, ⟨_, heq⟩ | ⟨_, heq⟩⟩ := advanceVerify_cases u <;> rw [heq] <;>
        exact statusWithin_finish _ _ (hrunning (by simp))
    | property group offset bytes =>
      rw [hs] at ha hrunning; cases ha
      obtain ⟨_, heq⟩ | ⟨_, _, heq⟩ := advanceProperty_cases group offset bytes u <;> rw [heq] <;>
        exact statusWithin_finish _ _ (hrunning (by simp))
    | dataRateRead bps =>
      rw [hs] at ha hrunning; cases ha
      obtain ⟨_, heq⟩ | ⟨_, _, ⟨_, heq⟩ | ⟨_, heq⟩⟩ := advanceDataRateRead_cases bps u <;> rw [heq]
      · exact statusWithin_finish _ _ (hrunning (by simp))
      · exact statusWithin_setSeq _ nofun (List.Subset.trans (by simp) hrunning)
      · exact statusWithin_finish _ _ (hrunning (by simp))
    | dataRateWrite bps r =>
      rw [hs] at ha hrunning; cases ha
      obtain ⟨_, heq⟩ | ⟨_, _, heq⟩ := advanceDataRateWrite_cases bps r u <;> rw [heq] <;>
        exact statusWithin_finish _ _ (hrunning (by simp))
    | txFirst _ | txPoll _ _ _ | txChunk _ _ | txStart _ => rw [hs] at hjob; cases hjob

end

/-- The checks of an operation end it with one of its statuses, and its first position has no others. -/
theorem startOf_statusWithin (i : Instr) (s : State) : StatusWithin (statusesPastGuard i) (startOf i s) := by
  cases i with
  | reset => exact statusWithin_setSeq s nofun (by decide)
  | configure => exact statusWithin_loadFrom 0 s (by decide)
  | verify => exact statusWithin_setSeq s nofun (by decide)
  | setFrequency channel => exact statusWithin_finish _ _ List.mem_cons_self
  | applyFrequency freqHz adj =>
    obtain ⟨_, heq⟩ | ⟨_, _, heq⟩ := startApplyFrequency_cases freqHz adj s <;> rw [startOf, heq]
    · exact statusWithin_finish _ _ (by simp [statusesPastGuard, possibleStatuses])
    · exact statusWithin_setSeq _ nofun (by simp [statusesPastGuard, possibleStatuses])
  | setDataRate bps => exact statusWithin_setSeq s nofun (by simp [statusesPastGuard, possibleStatuses])
  | setModulation mode =>
    obtain ⟨_, heq⟩ | ⟨_, _, heq⟩ := startSetModulation_cases mode s <;> rw [startOf, heq]
    · exact statusWithin_finish _ _ (by simp [statusesPastGuard, possibleStatuses])
    · exact statusWithin_setSeq _ nofun (by simp [statusesPastGuard, possibleStatuses])
  | setPower level => exact statusWithin_setSeq s nofun (by simp [statusesPastGuard, possibleStatuses])
  | adjustCrystal adj =>
    obtain ⟨_, heq⟩ | ⟨_, _, heq⟩ := startAdjustCrystal_cases adj s <;> rw [startOf, heq]
    · exact statusWithin_finish _ _ (by simp [statusesPastGuard, possibleStatuses])
    · exact statusWithin_setSeq _ nofun (by simp [statusesPastGuard, possibleStatuses])
  | transmit paddr len framecount =>
    obtain ⟨_, heq⟩ | ⟨_, _, heq⟩ | ⟨_, _, _, heq⟩ | ⟨_, _, _, _, ⟨_, heq⟩ | ⟨_, heq⟩⟩ :=
      startTransmitOperation_cases paddr len framecount s <;> rw [startOf, heq]
    · exact statusWithin_finish _ _ (by simp [statusesPastGuard, possibleStatuses])
    · exact statusWithin_finish _ _ (by simp [statusesPastGuard, possibleStatuses])
    · exact statusWithin_finish _ _ (by simp [statusesPastGuard, possibleStatuses])
    · exact statusWithin_finish _ _ (by simp [statusesPastGuard, possibleStatuses])
    · exact statusWithin_setSeq _ nofun (by simp [statusesPastGuard, possibleStatuses])

theorem exec_status_of_mayRun {i : Instr} {s t : State} (hrun : mayRun i s.lc = true) (h : exec i s = .next t) :
    t.status ∈ statusesPastGuard i := by
  obtain ⟨hidle, _⟩ := exec_cases h
  rw [exec_of_mayRun hidle hrun] at h
  have hwithin : StatusWithin (statusesPastGuard i) t :=
    runToEnd_keeps (fun _ _ _ => advance_statusWithin) (startOf_statusWithin i s) h
  exact hwithin.ended (runToEnd_idle h)

/-- Settles O15: past its guard an operation ends with a status of `statusesPastGuard`. -/
theorem guardEndsWithStatusOnly : Obligations.GuardEndsWithStatusOnly :=
  fun _ _ hidle => ⟨exec_of_not_mayRun hidle, fun _ hrun h => statusesPastGuard_ne_guard (exec_status_of_mayRun hrun h)⟩

end Sys2Proof.Machine
end

section
/-!
PROOF. What the operations leave in `LC`: RESET, CONFIGURE and VERIFY end in their own lifecycle state or in `HALTED`, the
others and an operation that is guarded out write none.
-/

namespace Sys2Proof.Machine

/-- The lifecycle state that the operation running at a position gives when it ends `OK` (40_lifecycle.md rule R101). -/
def Sequencer.goal : Sequencer → Option Lc
  | .reset => some .resetDone
  | .configure _ => some .configuring
  | .verify => some .ready
  | _ => none

/-- How far an operation that gives the lifecycle state `goal` has come in `u`. -/
inductive LifecycleAt (goal : Lc) (u : State) : Prop where
  | running (hgoal : u.seq.goal = some goal)
  | completed (hidle : u.seq = .idle) (hstatus : u.status = .ok) (hlc : u.lc = goal)
  /-- A failure is fatal (60_exceptions.md rule R236). -/
  | failed (hidle : u.seq = .idle) (hstatus : u.status ≠ .ok) (hlc : u.lc = .halted)

theorem loadFrom_lifecycleAt (i : Nat) (u : State) : LifecycleAt .configuring (loadFrom i u) := by
  obtain ⟨_, heq⟩ | ⟨_, heq⟩ := loadFrom_cases i u <;> rw [heq]
  · exact .running rfl
  · exact .completed rfl rfl rfl

theorem advance_lifecycleAt {goal : Lc} {u v : State} (hbusy : u.seq ≠ .idle) (h : LifecycleAt goal u)
    (ha : advance u = .next v) : LifecycleAt goal v := by
  cases h with
  | completed hidle _ _ => exact absurd hidle hbusy
  | failed hidle _ _ => exact absurd hidle hbusy
  | running hgoal =>
    unfold advance at ha
    cases hs : u.seq with
    | reset =>
      rw [hs] at ha hgoal; cases ha; cases hgoal
      obtain ⟨_, heq⟩ | ⟨_, _, heq⟩ := advanceReset_cases u <;> rw [heq]
      · exact .failed rfl nofun rfl
      · exact .completed rfl rfl rfl
    | configure i =>
      rw [hs] at ha hgoal; cases ha; cases hgoal
      obtain ⟨_, heq⟩ | ⟨_, _, ⟨_, heq⟩ | ⟨_, _, heq⟩⟩ := advanceConfigure_cases i u <;> rw [heq]
      · exact .completed rfl rfl rfl
      · exact .failed rfl nofun rfl
      · exact loadFrom_lifecycleAt (i + 1) _
    | verify =>
      rw [hs] at ha hgoal; cases ha; cases hgoal
      obtain ⟨_, heq⟩ | ⟨_, _, ⟨_, heq⟩ | ⟨_, heq⟩⟩ := advanceVerify_cases u <;> rw [heq]
      · exact .failed rfl nofun rfl
      · exact .completed rfl rfl rfl
      · exact .failed rfl nofun rfl
    | _ => rw [hs] at hgoal; cases hgoal

/-- Where an operation that gives `goal` has ended, `LC` says whether it succeeded. -/
theorem exec_lc_of_goal {goal : Lc} {i : Instr} {s t : State} (hstart : LifecycleAt goal (startOf i s))
    (hrun : mayRun i s.lc = true) (h : exec i s = .next t) : t.lc = if t.status = .ok then goal else .halted := by
  obtain ⟨hidle, _⟩ := exec_cases h
  rw [exec_of_mayRun hidle hrun] at h
  cases runToEnd_keeps (fun _ _ => advance_lifecycleAt) hstart h with
  | running hgoal => rw [runToEnd_idle h] at hgoal; cases hgoal
  | completed _ hstatus hlc => rw [hlc, if_pos hstatus]
  | failed _ hstatus hlc => rw [hlc, if_neg hstatus]

theorem exec_reset_lc {s t : State} (h : exec .reset s = .next t) :
    t.lc = if t.status = .ok then .resetDone else .halted :=
  exec_lc_of_goal (.running rfl) rfl h

/-- Settles O19. -/
theorem lifecycleTransitions : Obligations.LifecycleTransitions := by
  intro i s t _ h
  cases hrun : mayRun i s.lc with
  | false => exact exec_lc_of_not_mayRun hrun h
  | true =>
    obtain ⟨hframe, _⟩ := exec_runFrame h
    cases i with
    | reset => exact exec_reset_lc h
    | configure => exact exec_lc_of_goal (i := .configure) (loadFrom_lifecycleAt 0 s) hrun h
    | verify => exact exec_lc_of_goal (.running rfl) hrun h
    | _ => exact hframe.lc nofun

/-- Settles O20: `exec_keeps_halted` for every word but RESET's, `exec_reset_lc` for that one. -/
theorem onlyResetLeavesHalted : Obligations.OnlyResetLeavesHalted := by
  intro s t hidle hlc hstep hne
  obtain ⟨hbusy, _⟩ | ⟨_, _, rfl⟩ | ⟨w, rest, _, hprog, ⟨i, hdecode, hexec⟩ | ⟨_, _, rfl⟩⟩ := step_cases hstep
  · exact absurd hidle hbusy
  · exact absurd hlc hne
  · obtain rfl : i = .reset := by
      by_contra hi
      exact hne (exec_keeps_halted (s := s.setProgram rest) hi hlc hexec)
    have hreset := exec_reset_lc hexec
    by_cases hok : t.status = .ok
    · exact ⟨hreset.trans (if_pos hok), hok, w, rest, hprog, hdecode⟩
    · exact absurd (hreset.trans (if_neg hok)) hne
  · exact absurd hlc hne

end Sys2Proof.Machine
end

section
/-!
PROOF. RESET, CONFIGURE and VERIFY: the next state of each for every answer of the transport, beside those of the boot
sequence where all goes well.
-/

namespace Sys2Proof.Machine

section
variable {s : State}

/-! ### RESET -/

theorem exec_reset_of_fail (hidle : s.seq = .idle) (hanswer : s.answerAt 0 .reset = .fail) :
    exec .reset s = .next ((s.transact .reset).raiseFatal .transportError) := by
  rw [← State.answerTo_eq_answerAt, ← State.answerTo_setSeq s .reset] at hanswer
  rw [exec_runs (i := .reset) hidle (lifecycleGuard_reset _)]
  refine runToEnd_of_last (s := s.setSeq .reset) (by simp) ?_ rfl
  simp only [advance, State.setSeq_seq, advanceReset, hanswer]
  rfl

/-! ### VERIFY -/

theorem exec_verify_of_fail (hidle : s.seq = .idle) (hlc : s.lc = .configuring ∨ s.lc = .ready)
    (hanswer : s.answerAt 0 .readPartInfo = .fail) :
    exec .verify s = .next ((s.transact .readPartInfo).raiseFatal .transportError) := by
  rw [← State.answerTo_eq_answerAt, ← State.answerTo_setSeq s .verify] at hanswer
  rw [exec_runs (i := .verify) hidle (lifecycleGuard_verify_iff.mpr hlc)]
  refine runToEnd_of_last (s := s.setSeq .verify) (by simp) ?_ rfl
  simp only [advance, State.setSeq_seq, advanceVerify, hanswer]
  rfl

theorem exec_verify_of_mismatch {hi lo : Byte} (hidle : s.seq = .idle) (hlc : s.lc = .configuring ∨ s.lc = .ready)
    (hanswer : s.answerAt 0 .readPartInfo = .ok [hi, lo]) (hpart : s.cfg.params.expectedPartId ≠ hi ++ lo) :
    exec .verify s = .next ((s.transact .readPartInfo).raiseFatal .hardwareMismatch) := by
  rw [← State.answerTo_eq_answerAt, ← State.answerTo_setSeq s .verify] at hanswer
  rw [exec_runs (i := .verify) hidle (lifecycleGuard_verify_iff.mpr hlc)]
  refine runToEnd_of_last (s := s.setSeq .verify) (by simp) ?_ rfl
  simp only [advance, State.setSeq_seq, advanceVerify, hanswer, partOf_pair, State.setSeq_cfg, if_neg hpart.symm]
  rfl

/-! ### CONFIGURE -/

@[simp] theorem State.transactAll_cfg (txs : List Transaction) : (s.transactAll txs).cfg = s.cfg := by
  induction txs generalizing s with
  | nil => rfl
  | cons tx txs ih => exact ih (s := s.transact tx)

theorem State.transactAll_concat (txs : List Transaction) (tx : Transaction) :
    s.transactAll (txs ++ [tx]) = (s.transactAll txs).transact tx :=
  List.foldl_concat _ _ _ _

@[simp] theorem loadFrom_setSeq (i : Nat) (v : Sequencer) (u : State) : loadFrom i (u.setSeq v) = loadFrom i u := by
  obtain ⟨hlt, heq⟩ | ⟨hge, heq⟩ := loadFrom_cases i u <;> rw [heq]
  · exact if_pos hlt
  · exact if_neg (Nat.not_lt.mpr hge)

/-- An entry that is written leads the loader on to the next one (40_lifecycle.md rule R103). -/
theorem runToEnd_loadFrom_of_written {i : Nat} {e : CfgEntry} {bytes : List Byte}
    (he : s.cfg.params.cfgTable[i]? = some e) (hanswer : s.answerAt 0 (entryWrite e) = .ok bytes) :
    runToEnd (loadFrom i s) = runToEnd (loadFrom (i + 1) (s.transact (entryWrite e))) := by
  obtain ⟨hlt, _⟩ := List.getElem?_eq_some_iff.mp he
  have hwrite := advance_configure_of_ok (s := s.setSeq (.configure i)) rfl he hanswer
  calc runToEnd (loadFrom i s)
      = runToEnd (s.setSeq (.configure i)) := by rw [loadFrom, if_pos hlt]
    _ = runToEnd (loadFrom (i + 1) ((s.transact (entryWrite e)).setSeq (.configure i))) :=
        operationIsItsTransactionsInOrder _ _ (by simp) hwrite
    _ = runToEnd (loadFrom (i + 1) (s.transact (entryWrite e))) := by rw [loadFrom_setSeq]

/-- An entry that cannot be written ends the loader with its index (rules R104, R106). -/
theorem runToEnd_loadFrom_of_failed {i : Nat} {e : CfgEntry} (he : s.cfg.params.cfgTable[i]? = some e)
    (hanswer : s.answerAt 0 (entryWrite e) = .fail) :
    runToEnd (loadFrom i s) =
      .next (((s.transact (entryWrite e)).setLc .halted).raiseAt .transportError (BitVec.ofNat 16 i)) := by
  obtain ⟨hlt, _⟩ := List.getElem?_eq_some_iff.mp he
  rw [← State.answerTo_eq_answerAt, ← State.answerTo_setSeq s (.configure i)] at hanswer
  rw [loadFrom, if_pos hlt]
  refine runToEnd_of_last (by simp) ?_ rfl
  simp only [advance, State.setSeq_seq, advanceConfigure, State.setSeq_cfg, he, hanswer]
  rfl

/-- Once the entries before `i` are written, the answer to entry `i` is the next. -/
theorem State.answerAt_transactAll_take {i : Nat} {e : CfgEntry} (he : s.cfg.params.cfgTable[i]? = some e)
    (tx : Transaction) :
    (s.transactAll ((s.cfg.params.cfgTable.take i).map entryWrite)).answerAt 0 tx = s.answerAt i tx := by
  obtain ⟨hlt, _⟩ := List.getElem?_eq_some_iff.mp he
  rw [answerAt_transactAll, List.length_map, List.length_take_of_le hlt.le, Nat.zero_add]

/-- The loader comes to entry `i` when every entry before it is written. -/
theorem runToEnd_loadFrom_take {i : Nat} (hi : i ≤ s.cfg.params.cfgTable.length)
    (hanswers : ∀ j d, j < i → s.cfg.params.cfgTable[j]? = some d → s.answerAt j (entryWrite d) = .ok []) :
    runToEnd (loadFrom 0 s) =
      runToEnd (loadFrom i (s.transactAll ((s.cfg.params.cfgTable.take i).map entryWrite))) := by
  induction i with
  | zero => rfl
  | succ i ih =>
    have he : s.cfg.params.cfgTable[i]? = some s.cfg.params.cfgTable[i] := List.getElem?_eq_getElem hi
    rw [ih (by omega) fun j d hj => hanswers j d (by omega), List.take_add_one, he, Option.toList_some, List.map_append,
      List.map_singleton, State.transactAll_concat]
    refine runToEnd_loadFrom_of_written (bytes := []) (by rwa [State.transactAll_cfg]) ?_
    rw [State.answerAt_transactAll_take he]
    exact hanswers i _ (Nat.lt_succ_self i) he

theorem exec_configure_of_fail {i : Nat} {e : CfgEntry} (hidle : s.seq = .idle)
    (hlc : s.lc = .resetDone ∨ s.lc = .configuring ∨ s.lc = .ready) (he : s.cfg.params.cfgTable[i]? = some e)
    (hanswers : ∀ j d, j < i → s.cfg.params.cfgTable[j]? = some d → s.answerAt j (entryWrite d) = .ok [])
    (hfail : s.answerAt i (entryWrite e) = .fail) :
    exec .configure s =
      .next (((s.transactAll ((s.cfg.params.cfgTable.take i).map entryWrite ++ [entryWrite e])).setLc .halted).raiseAt
        .transportError (BitVec.ofNat 16 i)) := by
  obtain ⟨hlt, _⟩ := List.getElem?_eq_some_iff.mp he
  rw [exec_runs (i := .configure) hidle (lifecycleGuard_configure_iff.mpr hlc), State.transactAll_concat]
  refine (runToEnd_loadFrom_take hlt.le hanswers).trans (runToEnd_loadFrom_of_failed (by rwa [State.transactAll_cfg]) ?_)
  rw [State.answerAt_transactAll_take he, hfail]

/-- The event of a table entry that is written. -/
def writtenEntry (e : CfgEntry) : Event := ⟨tableWrite e, .ok []⟩

/-- The event of a table entry whose write fails. -/
def failedEntry (e : CfgEntry) : Event := ⟨tableWrite e, .fail⟩

theorem map_tx_writtenEntry (entries : List CfgEntry) :
    (entries.map writtenEntry).map Event.tx = entries.map entryWrite := by
  rw [List.map_map]
  rfl

theorem State.answersAs_writtenEntries {entries : List CfgEntry}
    (h : ∀ n e, entries[n]? = some e → s.answerAt n (tableWrite e) = .ok []) :
    s.answersAs (entries.map writtenEntry) := by
  intro n event hevent
  rw [List.getElem?_map, Option.map_eq_some_iff] at hevent
  obtain ⟨e, he, rfl⟩ := hevent
  exact h n e he

theorem State.answersAs_concat {events : List Event} {e : Event} (h : s.answersAs events)
    (he : s.answerAt events.length e.tx = e.answer) : s.answersAs (events ++ [e]) := by
  intro n d hd
  obtain hn | rfl | hn := Nat.lt_trichotomy n events.length
  · rw [List.getElem?_append_left hn] at hd
    exact h n d hd
  · obtain rfl : e = d := by simpa using hd
    exact he
  · have hout : (events ++ [e])[n]? = none := List.getElem?_eq_none (by simpa using hn)
    rw [hout] at hd
    cases hd

end

/-! ### What is settled of them -/

/-- Settles O16. -/
theorem resetOperation : Obligations.ResetOperation := by
  refine ⟨rfl, fun s hidle => ⟨fun hok => ?_, fun hfail => ?_, fun i t => exec_keeps_halted⟩⟩
  · rw [exec_reset_of_ok hidle hok]
    exact congrArg Host.Outcome.next (State.setLc_finish_transact hidle hok _ _ _)
  · rw [exec_reset_of_fail hidle hfail]
    exact congrArg Host.Outcome.next (State.setLc_finish_transact hidle hfail _ _ _)

/-- Settles O17: the writes up to the failing entry, or all of them, are answered as the events of the statement say. -/
theorem configureReplaysTheTable : Obligations.ConfigureReplaysTheTable := by
  refine ⟨rfl, fun s hidle => ⟨fun hlc => ?_, fun hlc => ⟨fun hanswers => ?_, fun i e he hbefore hfail => ?_⟩⟩⟩
  · exact exec_of_not_mayRun hidle (by obtain hlc | hlc := hlc <;> rw [hlc] <;> rfl)
  · rw [exec_configure_of_ok hidle hlc fun n e he => ⟨[], hanswers n e he⟩, State.afterConfigure, ← map_tx_writtenEntry]
    exact congrArg Host.Outcome.next
      (State.setLc_finish_transactAll hidle (State.answersAs_writtenEntries hanswers) _ _ _)
  · obtain ⟨hlt, _⟩ := List.getElem?_eq_some_iff.mp he
    have hwritten : s.answersAs ((s.cfg.params.cfgTable.take i).map writtenEntry) :=
      State.answersAs_writtenEntries fun n d hd => by
        rw [List.getElem?_take, Option.ite_none_right_eq_some] at hd
        obtain ⟨hn, hd⟩ := hd
        exact hbefore n d hn hd
    have hissued : s.answersAs ((s.cfg.params.cfgTable.take i).map writtenEntry ++ [failedEntry e]) :=
      State.answersAs_concat hwritten (by rwa [List.length_map, List.length_take_of_le hlt.le])
    have htxs : ((s.cfg.params.cfgTable.take i).map writtenEntry ++ [failedEntry e]).map Event.tx =
        (s.cfg.params.cfgTable.take i).map entryWrite ++ [entryWrite e] := by
      rw [List.map_append, map_tx_writtenEntry]
      rfl
    rw [exec_configure_of_fail hidle hlc he hbefore hfail, ← htxs]
    exact congrArg Host.Outcome.next (State.setLc_finish_transactAll hidle hissued _ _ _)

/-- Settles O18. -/
theorem verifyComparesThePart : Obligations.VerifyComparesThePart := by
  refine ⟨rfl, fun s hidle => ⟨fun hconfiguring hready => ?_, fun hlc => ⟨fun hi lo hanswer hpart => ?_,
    fun hi lo hanswer hpart => ?_, fun hfail => ?_⟩⟩⟩
  · exact exec_of_not_mayRun hidle (by simp [mayRun, hconfiguring, hready])
  · rw [exec_verify_of_match hidle hlc hanswer hpart]
    exact congrArg Host.Outcome.next (State.setLc_finish_transact hidle hanswer _ _ _)
  · rw [exec_verify_of_mismatch hidle hlc hanswer hpart]
    exact congrArg Host.Outcome.next (State.setLc_finish_transact hidle hanswer _ _ _)
  · rw [exec_verify_of_fail hidle hlc hfail]
    exact congrArg Host.Outcome.next (State.setLc_finish_transact hidle hfail _ _ _)

end Sys2Proof.Machine
end

section
/-!
PROOF. The values of the frequency synthesizer (41_synthesizer.md rules R133 to R137, R141): the machine's integer arithmetic
against the rational formula, and the five bytes against the word they carry.
-/

namespace Sys2Proof

theorem Config.intLow_pos (c : Config) : 1 ≤ c.params.intLow.toNat := by
  have h := c.wf
  simp only [Params.wf, Bool.and_eq_true, decide_eq_true_eq, and_assoc] at h
  obtain ⟨-, hlow, -⟩ := h
  exact hlow

theorem Config.intHigh_pos (c : Config) : 1 ≤ c.params.intHigh.toNat := by
  have h := c.wf
  simp only [Params.wf, Bool.and_eq_true, decide_eq_true_eq, and_assoc] at h
  obtain ⟨-, -, hhigh, -⟩ := h
  exact hhigh

end Sys2Proof

namespace Sys2Proof.Machine

/-- The lesser of the two, as numbers (rule R133). -/
theorem clampChannel_eq_min (limit channel : BitVec 8) :
    clampChannel limit channel = BitVec.ofNat 8 (min channel.toNat limit.toNat) := by
  unfold clampChannel
  split
  next hle => rw [Nat.min_eq_left (BitVec.le_def.mp hle), BitVec.ofNat_toNat, BitVec.setWidth_eq]
  next hnle =>
    have hge : limit.toNat ≤ channel.toNat := by rw [BitVec.le_def] at hnle; omega
    rw [Nat.min_eq_right hge, BitVec.ofNat_toNat, BitVec.setWidth_eq]

/-- The field of a signed value is the value modulo the field's size (30_encoding.md rule R73). -/
theorem toNat_toInt_emod {w : Nat} (v : BitVec w) : (v.toInt % 2 ^ w).toNat = v.toNat := by
  have h : (BitVec.ofInt w v.toInt).toNat = v.toNat := by rw [BitVec.ofInt_toInt]
  rwa [BitVec.toNat_ofInt, Nat.cast_pow, Nat.cast_ofNat] at h

/-! ### The fractional word -/

theorem bandInteger_toNat (p : Params) (f : BitVec 32) :
    (bandInteger p f).toNat = if f.toNat < p.bandMidHz.toNat then p.intLow.toNat else p.intHigh.toNat :=
  apply_ite BitVec.toNat (f < p.bandMidHz) p.intLow p.intHigh

/-- The integer rounding of 00_scope.md rule R15 is the rational one. -/
theorem roundDiv_eq_floor (a : Int) {q : Nat} (hq : 0 < q) : roundDiv a q = ⌊(a : ℚ) / (q : ℚ) + 1 / 2⌋ := by
  have hq0 : (q : ℚ) ≠ 0 := Nat.cast_ne_zero.mpr hq.ne'
  have hquotient : ((2 * a + (q : Int) : Int) : ℚ) / ((2 * q : Nat) : ℚ) = (a : ℚ) / (q : ℚ) + 1 / 2 := by
    push_cast
    field_simp
  rw [← hquotient, Rat.floor_intCast_div_natCast]
  rfl

/-- The exact numerator over the divisor is the scaled fraction of rule R135. -/
theorem fractionWord_eq_roundedFraction {p : Params} (hdivisor : 0 < p.refDivisorHz) (f : BitVec 32) :
    fractionWord p f = roundedFraction p f := by
  have hd : (p.refDivisorHz : ℚ) ≠ 0 := Nat.cast_ne_zero.mpr hdivisor.ne'
  rw [fractionWord, roundDiv_eq_floor _ hdivisor, roundedFraction, fractionNumerator, bandInteger_toNat]
  congr 2
  push_cast
  field_simp

/-- Settles O23. -/
theorem fractionWordIsTheRoundedFraction : Obligations.FractionWordIsTheRoundedFraction :=
  fun c f => fractionWord_eq_roundedFraction c.refDivisorHz_pos f

theorem adjustedWord_eq (c : Config) (f : BitVec 32) (adj : BitVec 24) :
    adjustedWord c.params f adj = roundedFraction c.params f + adj.toInt := by
  rw [adjustedWord, fractionWord_eq_roundedFraction c.refDivisorHz_pos, signedOperand]

/-! ### The two checks -/

theorem inBand_iff {p : Params} {f : BitVec 32} : inBand p f = true ↔ p.freqMinHz ≤ f ∧ f ≤ p.freqMaxHz := by
  simp only [inBand, Bool.and_eq_true, decide_eq_true_eq]

theorem inBand_eq_false_iff {p : Params} {f : BitVec 32} : inBand p f = false ↔ f < p.freqMinHz ∨ p.freqMaxHz < f := by
  rw [← Bool.not_eq_true, inBand_iff, not_and_or, BitVec.not_le, BitVec.not_le]

theorem wordFits_iff {w : Int} : wordFits w = true ↔ 0 ≤ w ∧ w < 2 ^ 28 := by
  simp only [wordFits, freqWordBits, Bool.and_eq_true, decide_eq_true_eq]

theorem wordFits_eq_false_iff {w : Int} : wordFits w = false ↔ w < 0 ∨ 2 ^ 28 ≤ w := by
  rw [← Bool.not_eq_true, wordFits_iff, not_and_or, not_le, not_lt]

/-! ### The default band and divisor -/

section
variable {p : Params} {f : BitVec 32}

theorem fractionNumerator_eq (p : Params) (f : BitVec 32) :
    fractionNumerator p f = ((f.toNat : Int) - ((bandInteger p f).toNat : Int) * (p.refDivisorHz : Int)) * 524288 := rfl

/-- The word over the default divisor, by the band integer (rules R134, R135). -/
theorem fractionWord_of_default_divisor {n : Nat} (hdivisor : p.refDivisorHz = 6500000)
    (hn : (bandInteger p f).toNat = n) :
    fractionWord p f = (((f.toNat : Int) - n * 6500000) * 1048576 + 6500000) / 13000000 := by
  have hnumerator : 2 * fractionNumerator p f = ((f.toNat : Int) - n * 6500000) * 1048576 := by
    rw [fractionNumerator_eq, hn, hdivisor]
    omega
  rw [fractionWord, hdivisor, ← hnumerator]
  rfl

/-- The divisor has fewer factors 2 than the scale, so twice the numerator is never an odd multiple of it. -/
theorem fractionNumerator_no_tie (p : Params) (f : BitVec 32) : (2 * fractionNumerator p f + 6500000) % 13000000 ≠ 0 := by
  rw [fractionNumerator_eq]
  generalize (f.toNat : Int) - ((bandInteger p f).toNat : Int) * (p.refDivisorHz : Int) = offset
  omega

end

/-- Settles O24: in either half of the band the word is an explicit quotient. -/
theorem fractionWordRangesAtDefault : Obligations.FractionWordRangesAtDefault := by
  intro p hmin hmax hmid hlow hhigh hdivisor f hband
  obtain ⟨hge, hle⟩ : 400000000 ≤ f.toNat ∧ f.toNat ≤ 406000000 := by rwa [inBand_iff, hmin, hmax] at hband
  have hlowWord (hf : f.toNat < 403000000) := fractionWord_of_default_divisor (n := 61) hdivisor
    (by rw [bandInteger_toNat, hmid, hlow]; exact if_pos hf)
  have hhighWord (hf : 403000000 ≤ f.toNat) := fractionWord_of_default_divisor (n := 62) hdivisor
    (by rw [bandInteger_toNat, hmid, hhigh]; exact if_neg (Nat.not_lt.mpr hf))
  have hlowRange (hf : f.toNat < 403000000) : 282309 ≤ fractionWord p f ∧ fractionWord p f ≤ 524288 := by
    rw [hlowWord hf]
    omega
  have hhighRange (hf : 403000000 ≤ f.toNat) : 0 ≤ fractionWord p f ∧ fractionWord p f ≤ 241979 := by
    rw [hhighWord hf]
    omega
  refine ⟨hlowRange, hhighRange, fun hf => ?_, fun hf _ => ?_, fun hf => ?_, fun hf => ?_,
    fractionNumerator_no_tie p f, fun adj => ?_⟩
  · rw [hlowWord (by omega), hf]
    rfl
  · rw [hlowWord (by omega)]
    omega
  · rw [hhighWord hf.ge, hf]
    rfl
  · rw [hhighWord (by omega), hf]
    rfl
  · have hadj := BitVec.toInt_lt (x := adj)
    rw [adjustedWord, signedOperand]
    omega

/-! ### The five bytes -/

theorem frequencyWord_bytes_value (word : BitVec 28) :
    ((word.extractLsb' 24 4).setWidth 8).toNat * 2 ^ 24 + (word.extractLsb' 16 8).toNat * 2 ^ 16 +
      (word.extractLsb' 8 8).toNat * 2 ^ 8 + (word.extractLsb' 0 8).toNat = word.toNat := by
  rw [← beNat_frequencyBytes_tail]
  simp only [beNat, List.foldl_cons, List.foldl_nil]
  omega

/-- The bytes of rule R137 for a band integer and a word that fits: `N - 1`, and the word with only a nibble on top. -/
theorem frequencyBytes_value {n : Byte} (hn : 1 ≤ n.toNat) {w : Int} (h0 : 0 ≤ w) (hw : w < 2 ^ 28) :
    ∃ b0 b1 b2 b3 b4 : Byte, frequencyBytes n w = [b0, b1, b2, b3, b4] ∧ b0.toNat + 1 = n.toNat ∧ b1.toNat < 16 ∧
      ((b1.toNat * 2 ^ 24 + b2.toNat * 2 ^ 16 + b3.toNat * 2 ^ 8 + b4.toNat : Nat) : Int) = w := by
  refine ⟨_, _, _, _, _, rfl, ?_, ?_, ?_⟩
  · have hle : 1#8 ≤ n := hn
    rw [BitVec.toNat_sub_of_le hle]
    exact Nat.sub_add_cancel hn
  · rw [BitVec.toNat_setWidth_of_le (by decide)]
    exact BitVec.isLt _
  · exact (congrArg Nat.cast (frequencyWord_bytes_value _)).trans (toNat_frequencyWord h0 hw)

end Sys2Proof.Machine
end

section
/-!
PROOF. SET_FREQUENCY and APPLY_FREQUENCY (41_synthesizer.md rules R133, R138 to R140), and the operations of one property
write run to their end.
-/

namespace Sys2Proof.Machine

section
variable {s : State}

/-- The status with which an operation's last transaction ends it, by the answer (20_memory.md rule R54). -/
def Response.endStatus : Response → Status
  | .fail => .transportError
  | .ok _ => .ok

/-- An operation that has come to its one property write issues it and ends by its answer. -/
theorem runToEnd_property {group offset : Byte} {bytes : List Byte} {answer : Response} (hidle : s.seq = .idle)
    (hanswer : s.answerAt 0 (propertyWrite group offset bytes) = answer) :
    runToEnd (s.setSeq (.property group offset bytes)) =
      .next (s.endedWith answer.endStatus 0#16 [⟨propertyWrite group offset bytes, answer⟩]) := by
  have hend : ((s.transact (propertyWrite group offset bytes)).finish answer.endStatus 0#16) =
      s.endedWith answer.endStatus 0#16 [⟨propertyWrite group offset bytes, answer⟩] :=
    State.finish_transactAll hidle (State.answersAs_singleton hanswer) _ _
  rw [← hend]
  refine runToEnd_of_last (by simp) (congrArg Host.Outcome.next ?_) rfl
  rw [← State.answerTo_eq_answerAt, ← State.answerTo_setSeq s (.property group offset bytes)] at hanswer
  obtain ⟨hfail, heq⟩ | ⟨resp, hok, heq⟩ := advanceProperty_cases group offset bytes (s.setSeq (.property group offset bytes))
  · obtain rfl := hfail.symm.trans hanswer
    exact heq
  · obtain rfl := hok.symm.trans hanswer
    exact heq

/-! ### SET_FREQUENCY -/

/-- The clamped channel is stored and the operation is over. -/
theorem exec_setFrequency_of_ready {channel : BitVec 8} (hidle : s.seq = .idle) (hlc : s.lc = .ready) :
    exec (.setFrequency channel) s =
      .next ((s.setChannel (clampChannel s.cfg.params.channelLimitUpper channel)).endedWith .ok 0#16 []) := by
  rw [exec_of_mayRun (i := .setFrequency channel) hidle (decide_eq_true hlc)]
  refine (runToEnd_of_idle rfl).trans (congrArg Host.Outcome.next ?_)
  exact State.finish_eq_endedWith (s := s.setChannel (clampChannel _ channel)) hidle .ok 0#16

/-! ### APPLY_FREQUENCY -/

/-- APPLY_FREQUENCY's one write (rules R137, R138). -/
def frequencyWrite (p : Params) (f : BitVec 32) (adj : BitVec 24) : Transaction :=
  propertyWrite p.freqGroup p.freqOffset (frequencyPayload p f adj)

variable {f : BitVec 32} {adj : BitVec 24}

/-- Either check that fails ends the operation before any transaction (rules R138, R139). -/
theorem exec_applyFrequency_out_of_range (hidle : s.seq = .idle) (hlc : s.lc = .ready)
    (hout : inBand s.cfg.params f = false ∨ wordFits (adjustedWord s.cfg.params f adj) = false) :
    exec (.applyFrequency f adj) s = .next (s.endedWith .frequencyOutOfRange 0#16 []) := by
  rw [exec_of_mayRun (i := .applyFrequency f adj) hidle (decide_eq_true hlc), ← State.finish_eq_endedWith hidle]
  obtain ⟨_, heq⟩ | ⟨hband, hfits, _⟩ := startApplyFrequency_cases f adj s
  · exact (congrArg runToEnd heq).trans (runToEnd_of_idle rfl)
  · simp [hband, hfits] at hout

/-- Past both checks the word is written, and the answer says how the operation ends. -/
theorem exec_applyFrequency_in_range {answer : Response} (hidle : s.seq = .idle) (hlc : s.lc = .ready)
    (hband : inBand s.cfg.params f = true) (hfits : wordFits (adjustedWord s.cfg.params f adj) = true)
    (hanswer : s.answerAt 0 (frequencyWrite s.cfg.params f adj) = answer) :
    exec (.applyFrequency f adj) s =
      .next (s.endedWith answer.endStatus 0#16 [⟨frequencyWrite s.cfg.params f adj, answer⟩]) := by
  rw [exec_of_mayRun (i := .applyFrequency f adj) hidle (decide_eq_true hlc)]
  obtain ⟨hout, _⟩ | ⟨_, _, heq⟩ := startApplyFrequency_cases f adj s
  · simp [hband, hfits] at hout
  · exact (congrArg runToEnd heq).trans (runToEnd_property hidle hanswer)

/-- What APPLY_FREQUENCY issues in `READY`, from its operands and the parameters (rule R140). -/
def frequencyTransactions (p : Params) (f : BitVec 32) (adj : BitVec 24) : List Transaction :=
  if inBand p f = true ∧ wordFits (adjustedWord p f adj) = true then [frequencyWrite p f adj] else []

/-- What an operation issued is what its end added to the trace. -/
theorem State.endedWith_issued (s : State) (st : Status) (info : BitVec 16) (events : List Event) :
    ((s.endedWith st info events).trace.drop s.trace.length).map Event.tx = events.map Event.tx :=
  congrArg (List.map Event.tx) (List.drop_left (l₁ := s.trace))

theorem exec_applyFrequency_issues {t : State} (hlc : s.lc = .ready) (h : exec (.applyFrequency f adj) s = .next t) :
    (t.trace.drop s.trace.length).map Event.tx = frequencyTransactions s.cfg.params f adj := by
  obtain ⟨hidle, _⟩ := exec_cases h
  by_cases hin : inBand s.cfg.params f = true ∧ wordFits (adjustedWord s.cfg.params f adj) = true
  · obtain ⟨hband, hfits⟩ := hin
    rw [exec_applyFrequency_in_range hidle hlc hband hfits rfl] at h
    cases h
    rw [State.endedWith_issued, frequencyTransactions, if_pos ⟨hband, hfits⟩]
    rfl
  · have hout := not_and_or.mp hin
    rw [Bool.not_eq_true, Bool.not_eq_true] at hout
    rw [exec_applyFrequency_out_of_range hidle hlc hout] at h
    cases h
    rw [State.endedWith_issued, frequencyTransactions, if_neg hin]
    rfl

end

/-! ### What is settled of them -/

/-- Settles O22. -/
theorem setFrequencyStoresClampedChannel : Obligations.SetFrequencyStoresClampedChannel := by
  refine fun s channel hidle => ⟨Laws.encode_toNat _, fun hlc => ?_, fun hlc => ?_⟩
  · exact exec_of_not_mayRun hidle (decide_eq_false hlc)
  · rw [exec_setFrequency_of_ready hidle hlc, clampChannel_eq_min]
    rfl

theorem encode_applyFrequency_toNat (f : BitVec 32) (adj : BitVec 24) :
    (encode (.applyFrequency f adj)).toNat = 0x11 * 2 ^ 56 + (adj.toInt % 2 ^ 24).toNat * 2 ^ 32 + f.toNat := by
  rw [Laws.encode_toNat, toNat_toInt_emod, Nat.add_assoc]
  rfl

/-- Settles O25: the machine's checks and word in the statement's terms, then the run of each outcome. -/
theorem applyFrequencyWritesTheWord : Obligations.ApplyFrequencyWritesTheWord := by
  refine fun s f adj hidle => ⟨encode_applyFrequency_toNat f adj, fun hlc => ?_, fun hlc =>
    ⟨fun hband => ?_, fun hword => ?_, fun hmin hmax h0 hw => ?_⟩⟩
  · exact exec_of_not_mayRun hidle (decide_eq_false hlc)
  · exact exec_applyFrequency_out_of_range hidle hlc (.inl (inBand_eq_false_iff.mpr hband))
  · rw [← adjustedWord_eq] at hword
    exact exec_applyFrequency_out_of_range hidle hlc (.inr (wordFits_eq_false_iff.mpr hword))
  · rw [← adjustedWord_eq] at h0 hw ⊢
    have hn : 1 ≤ (bandInteger s.cfg.params f).toNat := by
      rw [bandInteger_toNat]
      split
      · exact s.cfg.intLow_pos
      · exact s.cfg.intHigh_pos
    obtain ⟨b0, b1, b2, b3, b4, hbytes, hb0, hb1, hvalue⟩ := frequencyBytes_value hn h0 hw
    have hwrite : frequencyWrite s.cfg.params f adj =
        .setProperty s.cfg.params.freqGroup s.cfg.params.freqOffset 5#8 [b0, b1, b2, b3, b4] := by
      rw [frequencyWrite, frequencyPayload, hbytes]
      rfl
    have hrun {answer : Response} := exec_applyFrequency_in_range (f := f) (adj := adj) (answer := answer) hidle hlc
      (inBand_iff.mpr ⟨hmin, hmax⟩) (wordFits_iff.mpr ⟨h0, hw⟩)
    rw [hwrite] at hrun
    exact ⟨b0, b1, b2, b3, b4, hb0.trans (bandInteger_toNat _ _), hb1, hvalue, hrun, hrun⟩

/-- Settles O26: `frequencyTransactions` reads nothing but the parameters and the operands. -/
theorem applyFrequencyIsDeterministic : Obligations.ApplyFrequencyIsDeterministic := by
  intro s s' t t' f adj hlc hlc' hparams h h'
  rw [exec_applyFrequency_issues hlc h, exec_applyFrequency_issues hlc' h', hparams]

end Sys2Proof.Machine
end

section
/-!
PROOF. The data-rate value (42_datarate.md rules R160 to R165): the machine's fields against the formula on numbers, the
range check, and the bound that a fast crystal gives.
-/

namespace Sys2Proof.Machine

/-! ### The value -/

theorem txosr_eq (f : BitVec 2) : txosr f = if f.toNat = 1 then 40 else if f.toNat = 2 then 20 else 10 := by
  revert f
  decide

theorem txosr_le (f : BitVec 2) : txosr f ≤ 40 := by
  revert f
  decide

theorem txosrField_toNat (r : BitVec 32) : (txosrField r).toNat = r.toNat / 2 ^ 26 % 4 := by
  rw [txosrField, BitVec.extractLsb'_toNat, Nat.shiftRight_eq_div_pow]

theorem ncoMode_toNat (r : BitVec 32) : (ncoMode r).toNat = r.toNat % 2 ^ 26 := by
  rw [ncoMode, BitVec.extractLsb'_toNat, Nat.shiftRight_zero]

theorem dataRateValue_eq_scaledDataRate (p : Params) (bps : BitVec 16) (r : BitVec 32) :
    dataRateValue p bps r = scaledDataRate p bps.toNat r.toNat := by
  rw [dataRateValue, txosr_eq, txosrField_toNat, ncoMode_toNat]
  rfl

theorem readBackWord_toNat (r0 r1 r2 r3 : Byte) :
    (readBackWord [r0, r1, r2, r3]).toNat =
      r0.toNat * 2 ^ 24 + r1.toNat * 2 ^ 16 + r2.toNat * 2 ^ 8 + r3.toNat := by
  rw [readBackWord_four, Laws.toNat_append, Laws.toNat_append, Laws.toNat_append]
  omega

/-! ### The range check -/

theorem dataRateFits_iff {dr : Nat} : dataRateFits dr = true ↔ dr < 2 ^ 24 := decide_eq_true_iff

theorem dataRateFits_eq_false_iff {dr : Nat} : dataRateFits dr = false ↔ 2 ^ 24 ≤ dr :=
  decide_eq_false_iff_not.trans Nat.not_lt

/-! ### The fast crystal -/

/-- Seven times the crystal frequency is more than any NCO mode, so the quotient of rule R163 is at most 6. -/
theorem ncoMode_div_le {p : Params} (hcrystal : 2 ^ 26 < 7 * p.xtalFreqHz) (r : BitVec 32) :
    (ncoMode r).toNat / p.xtalFreqHz ≤ 6 := by
  have hmode : (ncoMode r).toNat < 7 * p.xtalFreqHz := (ncoMode r).isLt.trans hcrystal
  exact Nat.le_of_lt_succ (Nat.div_lt_of_lt_mul (by omega))

/-- Settles O28: a quotient of at most 6, times the greatest rate, times the greatest oversampling. -/
theorem largeCrystalFitsEveryRate : Obligations.LargeCrystalFitsEveryRate := by
  intro p bps r hcrystal
  have hrate : bps.toNat ≤ 65535 := Nat.le_of_lt_succ bps.isLt
  have hvalue : dataRateValue p bps r ≤ 15728400 :=
    calc dataRateValue p bps r
        ≤ 6 * (65535 * 40) := Nat.mul_le_mul (ncoMode_div_le hcrystal r) (Nat.mul_le_mul hrate (txosr_le _))
      _ = 15728400 := rfl
  exact ⟨hvalue, dataRateFits_iff.mpr (by omega)⟩

end Sys2Proof.Machine
end

section
/-!
PROOF. SET_DATA_RATE (42_datarate.md rule R165) run to its end: the read-back that ends it, and the write with either answer.
-/

namespace Sys2Proof.Machine

section
variable {s : State} {bps : BitVec 16}

/-! ### The last transaction -/

/-- A last transaction that ends the operation, after others that were answered as the events say. -/
theorem runToEnd_of_finish {u : State} {events : List Event} {st : Status} (hidle : s.seq = .idle)
    (hanswers : s.answersAs events) (hbusy : u.seq ≠ .idle)
    (hadvance : advance u = .next ((s.transactAll (events.map Event.tx)).finish st 0#16)) :
    runToEnd u = .next (s.endedWith st 0#16 events) := by
  rw [← State.finish_transactAll hidle hanswers]
  exact runToEnd_of_last hbusy hadvance rfl

/-! ### The read-back -/

theorem exec_setDataRate_of_ready (hidle : s.seq = .idle) (hlc : s.lc = .ready) :
    exec (.setDataRate bps) s = runToEnd (s.setSeq (.dataRateRead bps)) :=
  exec_of_mayRun (i := .setDataRate bps) hidle (decide_eq_true hlc)

theorem advance_dataRateRead_of_fail (hread : s.answerAt 0 (ncoRead s.cfg.params) = .fail) :
    advance (s.setSeq (.dataRateRead bps)) = .next ((s.transact (ncoRead s.cfg.params)).raise .transportError) := by
  rw [← State.answerTo_eq_answerAt, ← State.answerTo_setSeq s (.dataRateRead bps)] at hread
  simp only [advance, State.setSeq_seq, advanceDataRateRead, State.setSeq_cfg, hread]
  rfl

theorem advance_dataRateRead_of_ok {bytes : List Byte} (hread : s.answerAt 0 (ncoRead s.cfg.params) = .ok bytes) :
    advance (s.setSeq (.dataRateRead bps)) =
      .next (if dataRateFits (dataRateValue s.cfg.params bps (readBackWord bytes)) then
          (s.transact (ncoRead s.cfg.params)).setSeq (.dataRateWrite bps (readBackWord bytes))
        else (s.transact (ncoRead s.cfg.params)).raise .dataRateOutOfRange) := by
  rw [← State.answerTo_eq_answerAt, ← State.answerTo_setSeq s (.dataRateRead bps)] at hread
  simp only [advance, State.setSeq_seq, advanceDataRateRead, State.setSeq_cfg, hread]
  rfl

theorem exec_setDataRate_of_read_fail (hidle : s.seq = .idle) (hlc : s.lc = .ready)
    (hread : s.answerAt 0 (ncoRead s.cfg.params) = .fail) :
    exec (.setDataRate bps) s = .next (s.endedWith .transportError 0#16 [⟨ncoRead s.cfg.params, .fail⟩]) :=
  (exec_setDataRate_of_ready hidle hlc).trans
    (runToEnd_of_finish hidle (State.answersAs_singleton hread) nofun (advance_dataRateRead_of_fail hread))

section
variable {bytes : List Byte} (hread : s.answerAt 0 (ncoRead s.cfg.params) = .ok bytes)
include hread

theorem exec_setDataRate_out_of_range (hidle : s.seq = .idle) (hlc : s.lc = .ready)
    (hout : dataRateFits (dataRateValue s.cfg.params bps (readBackWord bytes)) = false) :
    exec (.setDataRate bps) s = .next (s.endedWith .dataRateOutOfRange 0#16 [⟨ncoRead s.cfg.params, .ok bytes⟩]) := by
  rw [exec_setDataRate_of_ready hidle hlc]
  refine runToEnd_of_finish hidle (State.answersAs_singleton hread) nofun ?_
  rw [advance_dataRateRead_of_ok hread, if_neg (ne_true_of_eq_false hout)]
  rfl

/-! ### The write -/

/-- Where SET_DATA_RATE stands when its read-back gave a value that fits. -/
def State.atDataRateWrite (s : State) (bps : BitVec 16) (r : BitVec 32) : State :=
  (s.transact (ncoRead s.cfg.params)).setSeq (.dataRateWrite bps r)

theorem exec_setDataRate_in_range (hidle : s.seq = .idle) (hlc : s.lc = .ready)
    (hfits : dataRateFits (dataRateValue s.cfg.params bps (readBackWord bytes)) = true) :
    exec (.setDataRate bps) s = runToEnd (s.atDataRateWrite bps (readBackWord bytes)) := by
  rw [exec_setDataRate_of_ready hidle hlc]
  refine operationIsItsTransactionsInOrder _ _ nofun ?_
  rw [advance_dataRateRead_of_ok hread, if_pos hfits]
  rfl

theorem answersAs_dataRate {r : BitVec 32} {answer : Response}
    (hwrite : s.answerAt 1 (dataRateWrite s.cfg.params bps r) = answer) :
    s.answersAs [⟨ncoRead s.cfg.params, .ok bytes⟩, ⟨dataRateWrite s.cfg.params bps r, answer⟩] :=
  State.answersAs_concat (State.answersAs_singleton hread) hwrite

theorem runToEnd_dataRateWrite_of_fail {r : BitVec 32} (hidle : s.seq = .idle)
    (hwrite : s.answerAt 1 (dataRateWrite s.cfg.params bps r) = .fail) :
    runToEnd (s.atDataRateWrite bps r) =
      .next (s.endedWith .transportError 0#16
        [⟨ncoRead s.cfg.params, .ok bytes⟩, ⟨dataRateWrite s.cfg.params bps r, .fail⟩]) := by
  refine runToEnd_of_finish hidle (answersAs_dataRate hread hwrite) nofun (congrArg Host.Outcome.next ?_)
  rw [← State.answerAt_transact s (ncoRead s.cfg.params), ← State.answerTo_eq_answerAt] at hwrite
  obtain ⟨_, heq⟩ | ⟨_, hok, _⟩ := advanceDataRateWrite_cases bps r (s.atDataRateWrite bps r)
  · exact heq
  · cases hok.symm.trans hwrite

/-- Only the write that succeeds stores the rate. -/
theorem runToEnd_dataRateWrite_of_ok {r : BitVec 32} {resp : List Byte} (hidle : s.seq = .idle)
    (hwrite : s.answerAt 1 (dataRateWrite s.cfg.params bps r) = .ok resp) :
    runToEnd (s.atDataRateWrite bps r) =
      .next ((s.endedWith .ok 0#16
        [⟨ncoRead s.cfg.params, .ok bytes⟩, ⟨dataRateWrite s.cfg.params bps r, .ok resp⟩]).setDataRate bps) := by
  rw [← State.finish_transactAll hidle (answersAs_dataRate hread hwrite)]
  refine runToEnd_of_last nofun (congrArg Host.Outcome.next ?_) rfl
  rw [← State.answerAt_transact s (ncoRead s.cfg.params), ← State.answerTo_eq_answerAt] at hwrite
  obtain ⟨hfail, _⟩ | ⟨_, _, heq⟩ := advanceDataRateWrite_cases bps r (s.atDataRateWrite bps r)
  · cases hfail.symm.trans hwrite
  · exact heq

end

end

/-! ### What is settled of it -/

/-- Settles O27: the machine's value and bytes in the statement's terms, then the run of each outcome. -/
theorem setDataRateScalesAndWrites : Obligations.SetDataRateScalesAndWrites := by
  refine fun s bps hidle => ⟨Laws.encode_toNat _, fun hlc => ?_, fun hlc => ⟨fun hfail => ?_, fun r0 r1 r2 r3 hread => ?_⟩⟩
  · exact exec_of_not_mayRun hidle (decide_eq_false hlc)
  · exact exec_setDataRate_of_read_fail hidle hlc hfail
  · rw [← readBackWord_toNat, ← dataRateValue_eq_scaledDataRate]
    refine ⟨fun hout => ?_, fun hfits => ?_⟩
    · exact exec_setDataRate_out_of_range hread hidle hlc (dataRateFits_eq_false_iff.mpr hout)
    · obtain ⟨-, hbigEndian, -⟩ := multiByteValuesAreBigEndian
      obtain ⟨d0, d1, d2, hbytes, hvalue⟩ := hbigEndian _ hfits
      have hwrite : dataRateWrite s.cfg.params bps (readBackWord [r0, r1, r2, r3]) =
          .setProperty s.cfg.params.drGroup s.cfg.params.drOffset 3#8 [d0, d1, d2] := by
        rw [dataRateWrite, hbytes]
        rfl
      rw [exec_setDataRate_in_range hread hidle hlc (dataRateFits_iff.mpr hfits)]
      refine ⟨d0, d1, d2, hvalue, ?_⟩
      rw [← hwrite]
      exact ⟨runToEnd_dataRateWrite_of_ok hread hidle, runToEnd_dataRateWrite_of_fail hread hidle⟩

end Sys2Proof.Machine
end

section
/-!
PROOF. SET_MODULATION, SET_POWER and ADJUST_CRYSTAL (43_link_control.md rules R180 to R184): the variant's byte and the trim
value in the statements' terms, then each operation, which ends on its check or issues its one property write.
-/

namespace Sys2Proof.Machine

/-! ### The modulation byte -/

theorem modulationOf_eq_none {mode : BitVec 8} (h : 3 < mode.toNat) : modulationOf mode = none := by
  have hne {k : BitVec 8} (hk : k.toNat ≤ 3) : mode ≠ k := by
    rintro rfl
    omega
  rw [modulationOf, if_neg (hne (by decide)), if_neg (hne (by decide)), if_neg (hne (by decide)),
    if_neg (hne (by decide))]

/-- The four bytes of rule R180's table stand in the order of the mode codes. -/
theorem modulation_of_table {p : Params} {mode : BitVec 8} {b : Byte}
    (h : [p.modByteFsk2Packet, p.modByteCwPn9, p.modByteFsk2Pn9, p.modByteFsk2Legacy][mode.toNat]? = some b) :
    ∃ m, modulationOf mode = some m ∧ modulationByte p m = b := by
  obtain ⟨hmode, hbyte⟩ := List.getElem?_eq_some_iff.mp h
  have hcode : mode = 0#8 ∨ mode = 1#8 ∨ mode = 2#8 ∨ mode = 3#8 := by
    simp only [List.length_cons, List.length_nil] at hmode
    bv_omega
  obtain rfl | rfl | rfl | rfl := hcode
  · exact ⟨.fsk2Packet, rfl, hbyte⟩
  · exact ⟨.cwPn9, rfl, hbyte⟩
  · exact ⟨.fsk2Pn9, rfl, hbyte⟩
  · exact ⟨.fsk2LegacyPacket, rfl, hbyte⟩

/-! ### The trim value -/

/-- A byte of the trim value's number is the byte that is written (rule R184). -/
theorem ofInt_trimValue {p : Params} {adj : BitVec 8} {v : Byte}
    (h : (v.toNat : Int) = (p.baseTrim.toNat : Int) + adj.toInt) : BitVec.ofInt 8 (trimValue p adj) = v := by
  have htrim : trimValue p adj = (v.toNat : Int) := h.symm
  rw [htrim, BitVec.ofInt_natCast, BitVec.ofNat_toNat, BitVec.setWidth_eq]

theorem encode_adjustCrystal_toNat (adj : BitVec 8) :
    (encode (.adjustCrystal adj)).toNat = 0x15 * 2 ^ 56 + (adj.toInt % 256).toNat := by
  have hfield : (adj.toInt % 256).toNat = adj.toNat := toNat_toInt_emod adj
  rw [Laws.encode_toNat, hfield]
  rfl

/-! ### Past the guard -/

section
variable {s : State}

theorem startSetModulation_of_none {mode : BitVec 8} (h : modulationOf mode = none) :
    startSetModulation mode s = s.raise .invalidModulation := by
  simp only [startSetModulation, h]

theorem startSetModulation_of_some {mode : BitVec 8} {m : Modulation} (h : modulationOf mode = some m) :
    startSetModulation mode s =
      s.setSeq (.property s.cfg.params.modGroup s.cfg.params.modOffset [modulationByte s.cfg.params m]) := by
  simp only [startSetModulation, h]

/-- A trim value that is a byte up to `TRIM_MAX` is past the range check (rule R184). -/
theorem startAdjustCrystal_of_byte {adj : BitVec 8} {v : Byte}
    (hsum : (v.toNat : Int) = (s.cfg.params.baseTrim.toNat : Int) + adj.toInt) (hmax : v ≤ s.cfg.params.trimMax) :
    startAdjustCrystal adj s = s.setSeq (.property s.cfg.params.trimGroup s.cfg.params.trimOffset [v]) := by
  have hin : ¬ (trimValue s.cfg.params adj < 0 ∨ (s.cfg.params.trimMax.toNat : Int) < trimValue s.cfg.params adj) := by
    have htrim : trimValue s.cfg.params adj = (v.toNat : Int) := hsum.symm
    have hle : v.toNat ≤ s.cfg.params.trimMax.toNat := BitVec.le_def.mp hmax
    omega
  rw [startAdjustCrystal, if_neg hin, ofInt_trimValue hsum]

/-! ### To the end -/

section
variable {i : Instr} (hidle : s.seq = .idle) (hrun : mayRun i s.lc = true)
include hidle hrun

/-- An operation that its check ends issues nothing. -/
theorem exec_of_start_raise {st : Status} (hstart : startOf i s = s.raise st) :
    exec i s = .next (s.endedWith st 0#16 []) := by
  rw [exec_of_mayRun hidle hrun, hstart, ← State.finish_eq_endedWith hidle]
  exact runToEnd_of_idle rfl

/-- An operation whose start leads to its property write issues it, and the answer says how the operation ends. -/
theorem exec_of_start_property {group offset : Byte} {bytes : List Byte} {answer : Response}
    (hstart : startOf i s = s.setSeq (.property group offset bytes))
    (hanswer : s.answerAt 0 (propertyWrite group offset bytes) = answer) :
    exec i s = .next (s.endedWith answer.endStatus 0#16 [⟨propertyWrite group offset bytes, answer⟩]) := by
  rw [exec_of_mayRun hidle hrun, hstart]
  exact runToEnd_property hidle hanswer

end

end

/-! ### What is settled of them -/

/-- Settles O30: the mode's place in the table is its variant, and the variant's byte is written. -/
theorem setModulationWritesVariantByte : Obligations.SetModulationWritesVariantByte := by
  refine fun s mode hidle => ⟨Laws.encode_toNat _, fun hlc => ?_, fun hlc => ⟨fun hunknown => ?_, fun b hb => ?_⟩⟩
  · exact exec_of_not_mayRun hidle (decide_eq_false hlc)
  · exact exec_of_start_raise (i := .setModulation mode) hidle (decide_eq_true hlc)
      (startSetModulation_of_none (modulationOf_eq_none hunknown))
  · obtain ⟨m, hmode, rfl⟩ := modulation_of_table hb
    have hwrite {answer : Response} := exec_of_start_property (i := .setModulation mode) (answer := answer) hidle
      (decide_eq_true hlc) (startSetModulation_of_some hmode)
    exact ⟨hwrite, hwrite⟩

/-- Settles O31: past its guard SET_POWER has no check. -/
theorem setPowerPassesTheLevelThrough : Obligations.SetPowerPassesTheLevelThrough := by
  refine fun s level hidle => ⟨Laws.encode_toNat _, fun hlc => ?_, fun hlc => ?_⟩
  · exact exec_of_not_mayRun hidle (decide_eq_false hlc)
  · have hwrite {answer : Response} := exec_of_start_property (i := .setPower level) (answer := answer) hidle
      (decide_eq_true hlc) rfl
    exact ⟨hwrite, hwrite⟩

/-- Settles O32: the sum is the machine's trim value; outside the range the check ends the operation, inside it the sum's own
byte is written. -/
theorem adjustCrystalWritesTheTrim : Obligations.AdjustCrystalWritesTheTrim := by
  refine fun s adj hidle => ⟨encode_adjustCrystal_toNat adj, fun hlc => ?_, fun hlc =>
    ⟨fun hout => ?_, fun v hsum hmax => ?_⟩⟩
  · exact exec_of_not_mayRun hidle (decide_eq_false hlc)
  · exact exec_of_start_raise (i := .adjustCrystal adj) hidle (decide_eq_true hlc) (if_pos hout)
  · have hwrite {answer : Response} := exec_of_start_property (i := .adjustCrystal adj) (answer := answer) hidle
      (decide_eq_true hlc) (startAdjustCrystal_of_byte hsum hmax)
    exact ⟨hwrite, hwrite⟩

end Sys2Proof.Machine
end

section
/-!
PROOF. TRANSMIT up to its first transaction (44_fifo_transmit.md rules R201, R202): the framing constant, the checks in
their order, and where operands that pass them lead.
-/

namespace Sys2Proof.Machine

/-! ### The framing constant -/

theorem framingConstant_eq_none_of_framingOf {framecount : BitVec 16} (h : framingOf framecount = none) :
    framingConstant framecount.toNat = none := by
  unfold framingOf at h
  split_ifs at h with h200 h1000 h1
  rw [framingConstant, if_neg (by bv_omega), if_neg (by bv_omega), if_neg (by bv_omega)]

/-- The machine's framing mode and its code are the constant of the statements (rule R201). -/
theorem framingConstant_eq_map (framecount : BitVec 16) :
    framingConstant framecount.toNat = (framingOf framecount).map framingCode := by
  cases h : framingOf framecount with
  | none => exact framingConstant_eq_none_of_framingOf h
  | some f => exact framingConstant_of_framingOf h

theorem framingConstant_eq_none_iff {framecount : BitVec 16} :
    framingConstant framecount.toNat = none ↔ framingOf framecount = none := by
  rw [framingConstant_eq_map, Option.map_eq_none_iff]

/-! ### The checks -/

section
variable {s : State} {paddr : BitVec 24} {len framecount : BitVec 16}

theorem startTransmitOperation_of_too_large (hlen : len ≠ 0#16) (hmax : s.cfg.params.maxPacketLen < len) :
    startTransmitOperation paddr len framecount s = s.raise .payloadTooLarge := by
  rw [startTransmitOperation, if_neg hlen, if_pos hmax]

variable (hlen : len ≠ 0#16) (hmax : len ≤ s.cfg.params.maxPacketLen)
include hlen hmax

theorem startTransmitOperation_of_no_framing (hframing : framingConstant framecount.toNat = none) :
    startTransmitOperation paddr len framecount s = s.raise .invalidFraming := by
  rw [startTransmitOperation, if_neg hlen, if_neg (BitVec.not_lt.mpr hmax), framingConstant_eq_none_iff.mp hframing]

/-- With a framing mode the bound of the payload is the last check. -/
theorem startTransmitOperation_of_framing {f : Framing} (hframing : framingOf framecount = some f) :
    startTransmitOperation paddr len framecount s =
      if pmemSize < paddr.toNat + len.toNat then s.raise .bufferOutOfRange
      else s.setSeq (.txFirst ⟨paddr, len, framingCode f⟩) := by
  rw [startTransmitOperation, if_neg hlen, if_neg (BitVec.not_lt.mpr hmax), hframing]

theorem startTransmitOperation_of_out_of_range (hframing : framingConstant framecount.toNat ≠ none)
    (hout : 2 ^ 24 < paddr.toNat + len.toNat) :
    startTransmitOperation paddr len framecount s = s.raise .bufferOutOfRange := by
  rw [Ne, framingConstant_eq_none_iff] at hframing
  obtain ⟨f, hf⟩ := Option.ne_none_iff_exists'.mp hframing
  rw [startTransmitOperation_of_framing hlen hmax hf]
  exact if_pos hout

/-- Operands that pass the checks lead to the initial write, with the framing constant of their repeat count. -/
theorem startTransmitOperation_of_passed {code : BitVec 16} (hframing : framingConstant framecount.toNat = some code)
    (hin : paddr.toNat + len.toNat ≤ 2 ^ 24) :
    startTransmitOperation paddr len framecount s = s.setSeq (.txFirst ⟨paddr, len, code⟩) := by
  rw [framingConstant_eq_map] at hframing
  obtain ⟨f, hf, rfl⟩ := Option.map_eq_some_iff.mp hframing
  rw [startTransmitOperation_of_framing hlen hmax hf]
  exact if_neg (Nat.not_lt.mpr hin)

end

theorem encode_transmit_toNat (paddr : BitVec 24) (len framecount : BitVec 16) :
    (encode (.transmit paddr len framecount)).toNat =
      0x20 * 2 ^ 56 + paddr.toNat * 2 ^ 32 + framecount.toNat * 2 ^ 16 + len.toNat := by
  have hopcode : (Instr.transmit paddr len framecount).opcode.byte.toNat = 0x20 := rfl
  rw [Laws.encode_toNat, hopcode, Laws.operandNumber]
  omega

/-- Settles O33: each check is one branch of the start, and an operation whose start ends it issues nothing. -/
theorem transmitChecksInOrder : Obligations.TransmitChecksInOrder := by
  refine fun s paddr len framecount hidle => ⟨encode_transmit_toNat paddr len framecount, fun hlc => ?_, fun hlc => ?_⟩
  · exact exec_of_not_mayRun hidle (decide_eq_false hlc)
  · have hends {st : Status} (hstart : startTransmitOperation paddr len framecount s = s.raise st) :=
      exec_of_start_raise (i := .transmit paddr len framecount) hidle (decide_eq_true hlc) hstart
    refine ⟨fun hzero => ?_, fun hlen hmax => ?_, fun hlen hmax hframing => ?_, fun hlen hmax hframing hout => ?_⟩
    · exact hends (if_pos hzero)
    · exact hends (startTransmitOperation_of_too_large hlen hmax)
    · exact hends (startTransmitOperation_of_no_framing hlen hmax hframing)
    · exact hends (startTransmitOperation_of_out_of_range hlen hmax hframing hout)

end Sys2Proof.Machine
end

section
/-!
PROOF. The pieces of a TRANSMIT's payload (44_fifo_transmit.md rules R203, R205): how many bytes are written after each
chunk, when a chunk is left, and that the bytes the block reads for a chunk are the payload's.
-/

namespace Sys2Proof.Machine

/-! ### Stretches of memory -/

theorem Memory.drop_bytes (m : Memory) (addr n k : Nat) : (m.bytes addr n).drop k = m.bytes (addr + k) (n - k) := by
  refine List.ext_getElem (by simp) fun i _ _ => ?_
  simp [Memory.bytes, Nat.add_assoc]

theorem Memory.take_bytes (m : Memory) (addr n k : Nat) : (m.bytes addr n).take k = m.bytes addr (min k n) := by
  rw [Memory.bytes, ← List.map_take, List.take_range, Memory.bytes]

theorem State.payload_eq_bytes (s : State) (paddr : BitVec 24) (len : BitVec 16) :
    s.payload paddr len = s.pmem.bytes paddr.toNat len.toNat := rfl

@[simp] theorem State.payload_length (s : State) (paddr : BitVec 24) (len : BitVec 16) :
    (s.payload paddr len).length = len.toNat := by
  simp [State.payload_eq_bytes]

/-! ### The initial write -/

theorem firstChunk_payload (s : State) (paddr : BitVec 24) (len : BitVec 16) :
    firstChunk s.cfg.params (s.payload paddr len) =
      s.pmem.bytes paddr.toNat (firstWriteSize s.cfg.params len.toNat) := by
  rw [firstChunk, State.payload_eq_bytes, Memory.take_bytes, firstWriteSize, Nat.min_comm]

/-! ### The chunks -/

/-- `SENT` after the initial write and `k` chunks. -/
def sentAfter (p : Params) (len k : Nat) : Nat := min len (p.fifoCapacity + k * p.chunkSize)

theorem sentAfter_zero (p : Params) (len : Nat) : sentAfter p len 0 = firstWriteSize p len := by
  rw [sentAfter, Nat.zero_mul, Nat.add_zero, firstWriteSize]

/-- Each write takes `SENT` on by the size of its chunk. -/
theorem sentAfter_succ (p : Params) (len k : Nat) :
    sentAfter p len (k + 1) = sentAfter p len k + chunkWriteSize p len (sentAfter p len k) := by
  simp only [sentAfter, chunkWriteSize, Nat.succ_mul]
  omega

/-- A wait is left exactly as long as the writes before it have not reached the end of the payload (rule R209). -/
theorem lt_transmitWaits_iff (c : Config) (len k : Nat) :
    k < transmitWaits c.params len ↔ c.params.fifoCapacity + k * c.params.chunkSize < len := by
  have hchunk := c.chunkSize_pos
  rw [transmitWaits, Nat.lt_iff_add_one_le, Nat.le_div_iff_mul_le hchunk, Nat.succ_mul]
  omega

theorem sentAfter_of_lt (c : Config) {len k : Nat} (h : k < transmitWaits c.params len) :
    sentAfter c.params len k = c.params.fifoCapacity + k * c.params.chunkSize ∧ sentAfter c.params len k < len := by
  have hlt := (lt_transmitWaits_iff c len k).mp h
  rw [sentAfter]
  omega

theorem sentAfter_transmitWaits (c : Config) (len : Nat) : sentAfter c.params len (transmitWaits c.params len) = len := by
  have hend : ¬ c.params.fifoCapacity + transmitWaits c.params len * c.params.chunkSize < len :=
    (lt_transmitWaits_iff c len _).not.mp (Nat.lt_irrefl _)
  exact Nat.min_eq_left (Nat.not_lt.mp hend)

/-- The `k`-th chunk is what the block reads from `SENT` on (rules R200, R205). -/
theorem laterChunk_payload (s : State) (paddr : BitVec 24) {len : BitVec 16} {k : Nat}
    (h : k < transmitWaits s.cfg.params len.toNat) :
    laterChunk s.cfg.params (s.payload paddr len) k =
      s.pmem.bytes (paddr.toNat + sentAfter s.cfg.params len.toNat k)
        (chunkWriteSize s.cfg.params len.toNat (sentAfter s.cfg.params len.toNat k)) := by
  obtain ⟨hsent, _⟩ := sentAfter_of_lt s.cfg h
  rw [laterChunk, State.payload_eq_bytes, Memory.drop_bytes, Memory.take_bytes, chunkWriteSize, hsent]

end Sys2Proof.Machine
end

section
/-!
PROOF. The run of a TRANSMIT whose transactions are answered as a list of events says: its writes, its polls and its waits,
one after the other, and what O34 and O37 to O39 say of the whole (44_fifo_transmit.md rules R203 to R207).
-/

namespace Sys2Proof.Machine

/-! ### Several transactions, answered as the events say -/

section
variable {s : State}

@[simp] theorem State.transactAll_pmem (txs : List Transaction) : (s.transactAll txs).pmem = s.pmem := by
  induction txs generalizing s with
  | nil => rfl
  | cons tx txs ih => exact ih (s := s.transact tx)

@[simp] theorem State.transactAll_curChannel (txs : List Transaction) :
    (s.transactAll txs).curChannel = s.curChannel := by
  induction txs generalizing s with
  | nil => rfl
  | cons tx txs ih => exact ih (s := s.transact tx)

@[simp] theorem State.payload_transactAll (txs : List Transaction) (paddr : BitVec 24) (len : BitVec 16) :
    (s.transactAll txs).payload paddr len = s.payload paddr len := by
  rw [State.payload_eq_bytes, State.transactAll_pmem, State.payload_eq_bytes]

/-- The state after the transactions of these events in order. -/
def State.after (s : State) (events : List Event) : State := s.transactAll (events.map Event.tx)

@[simp] theorem State.after_cfg (events : List Event) : (s.after events).cfg = s.cfg := State.transactAll_cfg _

@[simp] theorem State.after_curChannel (events : List Event) : (s.after events).curChannel = s.curChannel :=
  State.transactAll_curChannel _

@[simp] theorem State.payload_after (events : List Event) (paddr : BitVec 24) (len : BitVec 16) :
    (s.after events).payload paddr len = s.payload paddr len := State.payload_transactAll _ _ _

theorem State.after_append (before events : List Event) : s.after (before ++ events) = (s.after before).after events := by
  rw [State.after, List.map_append, State.transactAll, List.foldl_append]
  rfl

/-- The answers of two stretches of the trace are the first one's and then, after its transactions, the second one's. -/
theorem State.answersAs_append {before events : List Event} :
    s.answersAs (before ++ events) ↔ s.answersAs before ∧ (s.after before).answersAs events := by
  induction before generalizing s with
  | nil => exact ⟨fun h => ⟨s.answersAs_nil, h⟩, fun ⟨_, h⟩ => h⟩
  | cons e rest ih =>
    rw [List.cons_append, State.answersAs_cons, State.answersAs_cons, ih, and_assoc]
    rfl

end

/-! ### One transaction -/

section
variable {s : State} {job : TxJob}

@[simp] theorem freeOf_singleton (b : Byte) : freeOf [b] = b := by
  simp [freeOf, beNat]

@[simp] theorem transmitLoop_setSeq (job : TxJob) (sent : Nat) (v : Sequencer) (u : State) :
    transmitLoop job sent (u.setSeq v) = transmitLoop job sent u := by
  obtain ⟨hlt, heq⟩ | ⟨hge, heq⟩ := transmitLoop_cases job sent u <;> rw [heq]
  · exact if_pos hlt
  · exact if_neg (Nat.not_lt.mpr hge)

/-- A FIFO write inside PMEM that succeeds leads back to the head of the loop. -/
theorem advanceWrite_of_ok {sent n : Nat} {v : Sequencer} {resp : List Byte}
    (hin : job.paddr.toNat + sent + n ≤ pmemSize)
    (hanswer : s.answerTo (.writeFifo (s.pmem.bytes (job.paddr.toNat + sent) n)) = .ok resp) :
    advanceWrite job sent n (s.setSeq v) =
      .next (transmitLoop job (sent + n) (s.transact (.writeFifo (s.pmem.bytes (job.paddr.toNat + sent) n)))) := by
  simp only [advanceWrite, State.setSeq_pmem, memRead_inside hin, State.answerTo_setSeq, hanswer]
  exact congrArg Host.Outcome.next (transmitLoop_setSeq job (sent + n) v (s.transact (.writeFifo _)))

/-- A poll that is answered goes by what it reports. -/
theorem advancePoll_of_ok {sent polls : Nat} {b : Byte} {v : Sequencer} (hanswer : s.answerTo .readFifoFreeSpace = .ok [b]) :
    advancePoll job sent polls (s.setSeq v) =
      if s.cfg.params.chunkSize ≤ b.toNat then (s.transact .readFifoFreeSpace).setSeq (.txChunk job sent)
      else if s.cfg.params.pollLimit ≤ polls + 1 then (s.transact .readFifoFreeSpace).raise .fifoTimeout
      else (s.transact .readFifoFreeSpace).setSeq (.txPoll job sent (polls + 1)) := by
  simp only [advancePoll, State.answerTo_setSeq, hanswer, freeOf_singleton]
  rfl

/-! ### A wait -/

theorem tooShort_cons {p : Params} {b : Byte} {rest : List Byte} :
    tooShort p (b :: rest) = true ↔ b.toNat < p.chunkSize ∧ tooShort p rest = true := by
  simp [tooShort]

theorem tooShort_append {p : Params} {before after : List Byte} :
    tooShort p (before ++ after) = true ↔ tooShort p before = true ∧ tooShort p after = true := by
  simp [tooShort, List.all_append]

theorem Wait.wf_iff {p : Params} {w : Wait} :
    w.wf p = true ↔ w.short.length < p.pollLimit ∧ tooShort p w.short = true ∧ p.chunkSize ≤ w.enough.toNat := by
  simp [Wait.wf, and_assoc]

/-- Short polls up to the limit are counted and lead to the next poll (rule R204). -/
theorem runToEnd_shortPolls {sent polls : Nat} {short : List Byte} (hshort : tooShort s.cfg.params short = true)
    (hlimit : polls + short.length < s.cfg.params.pollLimit) (hanswers : s.answersAs (short.map pollEvent)) :
    runToEnd (s.setSeq (.txPoll job sent polls)) =
      runToEnd ((s.after (short.map pollEvent)).setSeq (.txPoll job sent (polls + short.length))) := by
  induction short generalizing s polls with
  | nil => rfl
  | cons b rest ih =>
    obtain ⟨hb, hrest⟩ := tooShort_cons.mp hshort
    rw [List.length_cons] at hlimit
    obtain ⟨hpoll, hpolls⟩ := (s.answersAs_cons (pollEvent b) (rest.map pollEvent)).mp hanswers
    have hadvance : advance (s.setSeq (.txPoll job sent polls)) =
        .next ((s.transact .readFifoFreeSpace).setSeq (.txPoll job sent (polls + 1))) := by
      refine congrArg Host.Outcome.next ((advancePoll_of_ok hpoll).trans ?_)
      rw [if_neg (by omega), if_neg (by omega)]
    rw [operationIsItsTransactionsInOrder _ _ (by simp) hadvance,
      ih (s := s.transact .readFifoFreeSpace) hrest (by rw [State.transact_cfg]; omega) hpolls, List.length_cons,
      Nat.add_right_comm polls 1]
    rfl

/-- A poll that reports enough leads to the write of the chunk, however many short ones came before it. -/
theorem runToEnd_wait {sent : Nat} {w : Wait} (hw : w.wf s.cfg.params = true)
    (hanswers : s.answersAs (w.short.map pollEvent ++ [pollEvent w.enough])) :
    runToEnd (s.setSeq (.txPoll job sent 0)) =
      runToEnd ((s.after (w.short.map pollEvent ++ [pollEvent w.enough])).setSeq (.txChunk job sent)) := by
  obtain ⟨hlimit, hshort, henough⟩ := Wait.wf_iff.mp hw
  obtain ⟨hpolls, hlast⟩ := State.answersAs_append.mp hanswers
  obtain ⟨hpoll, _⟩ := (State.answersAs_cons _ _ _).mp hlast
  rw [runToEnd_shortPolls hshort (by omega) hpolls, State.after_append]
  refine operationIsItsTransactionsInOrder _ _ nofun (congrArg Host.Outcome.next ?_)
  exact (advancePoll_of_ok hpoll).trans (if_pos (by rwa [State.after_cfg]))

/-- A wait whose polls are all short ends the operation at the limit (rule R204). -/
theorem runToEnd_timeout {sent : Nat} {short : List Byte} (hshort : tooShort s.cfg.params short = true)
    (hlimit : short.length = s.cfg.params.pollLimit) (hanswers : s.answersAs (short.map pollEvent)) :
    runToEnd (s.setSeq (.txPoll job sent 0)) = .next ((s.after (short.map pollEvent)).raise .fifoTimeout) := by
  have hpos := s.cfg.pollLimit_pos
  obtain rfl | ⟨before, b, rfl⟩ := List.eq_nil_or_concat short
  · rw [List.length_nil] at hlimit
    omega
  · rw [List.concat_eq_append] at hshort hlimit hanswers ⊢
    rw [List.length_append, List.length_singleton] at hlimit
    rw [List.map_append] at hanswers ⊢
    obtain ⟨hbefore, hb⟩ := tooShort_append.mp hshort
    obtain ⟨hb, _⟩ := tooShort_cons.mp hb
    obtain ⟨hpolls, hlast⟩ := State.answersAs_append.mp hanswers
    obtain ⟨hpoll, _⟩ := (State.answersAs_cons _ _ _).mp hlast
    rw [runToEnd_shortPolls hbefore (by omega) hpolls, State.after_append]
    refine runToEnd_of_last nofun (congrArg Host.Outcome.next ((advancePoll_of_ok hpoll).trans ?_)) rfl
    rw [State.after_cfg, if_neg (by omega), if_pos (by omega)]
    rfl

/-! ### A chunk, and several -/

/-- The events of the `k`-th wait and its write. -/
def waitEvents (p : Params) (payload : List Byte) (k : Nat) (w : Wait) : List Event :=
  w.short.map pollEvent ++ [pollEvent w.enough] ++ [writeEvent (laterChunk p payload k)]

theorem waitsEvents_cons_eq_append (p : Params) (payload : List Byte) (k : Nat) (w : Wait) (rest : List Wait) :
    waitsEvents p payload k (w :: rest) = waitEvents p payload k w ++ waitsEvents p payload (k + 1) rest := by
  simp [waitsEvents_cons, waitEvents]

/-- While a chunk is left the head of the loop begins a wait. -/
theorem transmitLoop_of_lt {k : Nat} (hk : k < transmitWaits s.cfg.params job.len.toNat) :
    transmitLoop job (sentAfter s.cfg.params job.len.toNat k) s =
      s.setSeq (.txPoll job (sentAfter s.cfg.params job.len.toNat k) 0) := by
  obtain ⟨_, hlt⟩ := sentAfter_of_lt s.cfg hk
  exact if_pos hlt

/-- With no chunk left it goes on to the start-transmit. -/
theorem transmitLoop_of_end :
    transmitLoop job (sentAfter s.cfg.params job.len.toNat (transmitWaits s.cfg.params job.len.toNat)) s =
      s.setSeq (.txStart job) := by
  rw [sentAfter_transmitWaits]
  exact if_neg (Nat.lt_irrefl _)

section
variable (hin : job.paddr.toNat + job.len.toNat ≤ pmemSize)
include hin

/-- The write of the `k`-th chunk. -/
theorem runToEnd_chunk {k : Nat} (hk : k < transmitWaits s.cfg.params job.len.toNat)
    (hanswers : s.answersAs [writeEvent (laterChunk s.cfg.params (s.payload job.paddr job.len) k)]) :
    runToEnd (s.setSeq (.txChunk job (sentAfter s.cfg.params job.len.toNat k))) =
      runToEnd (transmitLoop job (sentAfter s.cfg.params job.len.toNat (k + 1))
        (s.after [writeEvent (laterChunk s.cfg.params (s.payload job.paddr job.len) k)])) := by
  obtain ⟨_, hlt⟩ := sentAfter_of_lt s.cfg hk
  obtain ⟨_, _, hend⟩ := chunkWriteSize_bounds s.cfg hlt
  have hread : job.paddr.toNat + sentAfter s.cfg.params job.len.toNat k +
      chunkWriteSize s.cfg.params job.len.toNat (sentAfter s.cfg.params job.len.toNat k) ≤ pmemSize := by omega
  obtain ⟨hwrite, _⟩ := (State.answersAs_cons _ _ _).mp hanswers
  rw [laterChunk_payload s job.paddr hk] at hwrite ⊢
  rw [sentAfter_succ]
  exact operationIsItsTransactionsInOrder _ _ nofun (advanceWrite_of_ok hread hwrite)

/-- The `k`-th wait and its write lead from one turn of the loop to the next. -/
theorem runToEnd_waitEvents {k : Nat} {w : Wait} (hk : k < transmitWaits s.cfg.params job.len.toNat)
    (hw : w.wf s.cfg.params = true)
    (hanswers : s.answersAs (waitEvents s.cfg.params (s.payload job.paddr job.len) k w)) :
    runToEnd (transmitLoop job (sentAfter s.cfg.params job.len.toNat k) s) =
      runToEnd (transmitLoop job (sentAfter s.cfg.params job.len.toNat (k + 1))
        (s.after (waitEvents s.cfg.params (s.payload job.paddr job.len) k w))) := by
  obtain ⟨hpolls, hwrite⟩ := State.answersAs_append.mp hanswers
  have hchunk := runToEnd_chunk (s := s.after (w.short.map pollEvent ++ [pollEvent w.enough])) (k := k) hin
  simp only [State.after_cfg, State.payload_after] at hchunk
  rw [transmitLoop_of_lt hk, runToEnd_wait hw hpolls, hchunk hk hwrite, ← State.after_append, waitEvents]

/-- Waits that all go on lead as many turns further. -/
theorem runToEnd_waitsEvents {k : Nat} {waits : List Wait}
    (hk : k + waits.length ≤ transmitWaits s.cfg.params job.len.toNat) (hwf : ∀ w ∈ waits, w.wf s.cfg.params = true)
    (hanswers : s.answersAs (waitsEvents s.cfg.params (s.payload job.paddr job.len) k waits)) :
    runToEnd (transmitLoop job (sentAfter s.cfg.params job.len.toNat k) s) =
      runToEnd (transmitLoop job (sentAfter s.cfg.params job.len.toNat (k + waits.length))
        (s.after (waitsEvents s.cfg.params (s.payload job.paddr job.len) k waits))) := by
  induction waits generalizing s k with
  | nil => rfl
  | cons w rest ih =>
    rw [List.length_cons] at hk
    rw [waitsEvents_cons_eq_append] at hanswers ⊢
    obtain ⟨hwait, hrest⟩ := State.answersAs_append.mp hanswers
    obtain ⟨hw, hwfRest⟩ := List.forall_mem_cons.mp hwf
    have hloop := ih (s := s.after (waitEvents s.cfg.params (s.payload job.paddr job.len) k w)) (k := k + 1)
    simp only [State.after_cfg, State.payload_after] at hloop
    rw [runToEnd_waitEvents hin (by omega) hw hwait, hloop (by omega) hwfRest hrest, List.length_cons, State.after_append,
      Nat.add_right_comm k 1]
    rfl

/-- The initial write (rule R203). -/
theorem runToEnd_txFirst (hanswers : s.answersAs [writeEvent (firstChunk s.cfg.params (s.payload job.paddr job.len))]) :
    runToEnd (s.setSeq (.txFirst job)) =
      runToEnd (transmitLoop job (sentAfter s.cfg.params job.len.toNat 0)
        (s.after [writeEvent (firstChunk s.cfg.params (s.payload job.paddr job.len))])) := by
  have hread : job.paddr.toNat + 0 + firstWriteSize s.cfg.params job.len.toNat ≤ pmemSize := by
    rw [firstWriteSize]
    omega
  have hsent : sentAfter s.cfg.params job.len.toNat 0 = 0 + firstWriteSize s.cfg.params job.len.toNat := by
    rw [sentAfter_zero, Nat.zero_add]
  obtain ⟨hwrite, _⟩ := (State.answersAs_cons _ _ _).mp hanswers
  rw [firstChunk_payload] at hwrite ⊢
  rw [hsent]
  exact operationIsItsTransactionsInOrder _ _ nofun (advanceWrite_of_ok hread hwrite)

/-- The initial write and the waits that go on (rules R203 to R205). -/
theorem runToEnd_streamEvents {waits : List Wait} (hwaits : waits.length ≤ transmitWaits s.cfg.params job.len.toNat)
    (hwf : ∀ w ∈ waits, w.wf s.cfg.params = true)
    (hanswers : s.answersAs (streamEvents s.cfg.params (s.payload job.paddr job.len) waits)) :
    runToEnd (s.setSeq (.txFirst job)) =
      runToEnd (transmitLoop job (sentAfter s.cfg.params job.len.toNat waits.length)
        (s.after (streamEvents s.cfg.params (s.payload job.paddr job.len) waits))) := by
  rw [streamEvents, ← List.singleton_append] at hanswers ⊢
  obtain ⟨hfirst, hrest⟩ := State.answersAs_append.mp hanswers
  have hloop := runToEnd_waitsEvents (k := 0) (waits := waits)
    (s := s.after [writeEvent (firstChunk s.cfg.params (s.payload job.paddr job.len))]) hin
  simp only [State.after_cfg, State.payload_after, Nat.zero_add] at hloop
  rw [runToEnd_txFirst hin hfirst, hloop hwaits hwf hrest, State.after_append]

end

/-- With no chunk left, the start-transmit that succeeds ends the operation (rules R206, R207). -/
theorem runToEnd_start {resp : List Byte} (hanswers : s.answersAs [⟨startTransmit job s, .ok resp⟩]) :
    runToEnd (transmitLoop job (sentAfter s.cfg.params job.len.toNat (transmitWaits s.cfg.params job.len.toNat)) s) =
      .next (s.after [⟨startTransmit job s, .ok resp⟩]).complete := by
  obtain ⟨hstart, _⟩ := (State.answersAs_cons _ _ _).mp hanswers
  rw [transmitLoop_of_end]
  refine runToEnd_of_last nofun (congrArg Host.Outcome.next ?_) rfl
  obtain ⟨hfail, _⟩ | ⟨_, _, heq⟩ := advanceStart_cases job (s.setSeq (.txStart job))
  · cases hfail.symm.trans hstart
  · exact heq

/-- A wait whose polls are all short ends it (rule R204). -/
theorem runToEnd_transmitLoop_timeout {k : Nat} {short : List Byte} (hk : k < transmitWaits s.cfg.params job.len.toNat)
    (hshort : tooShort s.cfg.params short = true) (hlimit : short.length = s.cfg.params.pollLimit)
    (hanswers : s.answersAs (short.map pollEvent)) :
    runToEnd (transmitLoop job (sentAfter s.cfg.params job.len.toNat k) s) =
      .next ((s.after (short.map pollEvent)).raise .fifoTimeout) := by
  rw [transmitLoop_of_lt hk, runToEnd_timeout hshort hlimit hanswers]

end

/-! ### The whole operation -/

/-- A TRANSMIT that passes its checks, up to where its successful waits lead. -/
theorem exec_transmit_stream {s : State} {paddr : BitVec 24} {len framecount code : BitVec 16} {waits : List Wait}
    (hidle : s.seq = .idle) (hlc : s.lc = .ready) (hlen : len ≠ 0#16) (hmax : len ≤ s.cfg.params.maxPacketLen)
    (hframing : framingConstant framecount.toNat = some code) (hin : paddr.toNat + len.toNat ≤ 2 ^ 24)
    (hwaits : waits.length ≤ transmitWaits s.cfg.params len.toNat) (hwf : ∀ w ∈ waits, w.wf s.cfg.params = true)
    (hanswers : s.answersAs (streamEvents s.cfg.params (s.payload paddr len) waits)) :
    exec (.transmit paddr len framecount) s =
      runToEnd (transmitLoop ⟨paddr, len, code⟩ (sentAfter s.cfg.params len.toNat waits.length)
        (s.after (streamEvents s.cfg.params (s.payload paddr len) waits))) := by
  rw [exec_of_mayRun (i := .transmit paddr len framecount) hidle (decide_eq_true hlc), startOf,
    startTransmitOperation_of_passed hlen hmax hframing hin]
  exact runToEnd_streamEvents (job := ⟨paddr, len, code⟩) hin hwaits hwf hanswers

/-- Settles O38: after the last wait nothing is left to write, and the start-transmit is the last transaction. -/
theorem shortPollsAreCountedPerWait : Obligations.ShortPollsAreCountedPerWait := by
  rintro s paddr len framecount code waits _ hidle hlc hlen hmax hframing hin hwaits hwf rfl hanswers
  obtain ⟨hstream, hlast⟩ := State.answersAs_append.mp hanswers
  have hstart := runToEnd_start (s := s.after (streamEvents s.cfg.params (s.payload paddr len) waits))
    (job := ⟨paddr, len, code⟩) (resp := [])
  simp only [startTransmit, State.after_cfg, State.after_curChannel] at hstart
  rw [exec_transmit_stream hidle hlc hlen hmax hframing hin hwaits.le hwf hstream, hwaits, hstart hlast,
    ← State.after_append]
  exact congrArg Host.Outcome.next (State.finish_transactAll hidle hanswers .ok 0#16)

/-- Settles O39: the waits before lead to the wait in which the polls run out. -/
theorem laterWaitTimesOutOnItsOwnPolls : Obligations.LaterWaitTimesOutOnItsOwnPolls := by
  rintro s paddr len framecount code waits short _ hidle hlc hlen hmax hframing hin hwaits hwf hlimit hshort rfl hanswers
  obtain ⟨hstream, hpolls⟩ := State.answersAs_append.mp hanswers
  have htimeout := runToEnd_transmitLoop_timeout (s := s.after (streamEvents s.cfg.params (s.payload paddr len) waits))
    (job := ⟨paddr, len, code⟩) (k := waits.length) (short := short)
  simp only [State.after_cfg] at htimeout
  rw [exec_transmit_stream hidle hlc hlen hmax hframing hin hwaits.le hwf hstream, htimeout hwaits hshort hlimit hpolls,
    ← State.after_append]
  exact congrArg Host.Outcome.next (State.finish_transactAll hidle hanswers .fifoTimeout 0#16)

/-! ### With no wait before -/

@[simp] theorem streamEvents_nil (p : Params) (payload : List Byte) :
    streamEvents p payload [] = [writeEvent (firstChunk p payload)] := rfl

theorem State.answersAs_pollEvents {s : State} {free : List Byte}
    (h : ∀ (n : Nat) (b : Byte), free[n]? = some b → s.answerAt n .readFifoFreeSpace = .ok [b]) :
    s.answersAs (free.map pollEvent) := by
  intro n e he
  rw [List.getElem?_map, Option.map_eq_some_iff] at he
  obtain ⟨b, hb, rfl⟩ := he
  exact h n b hb

/-- Settles O37: O39 with no wait before the one that times out. -/
theorem fifoTimeoutAfterPollLimit : Obligations.FifoTimeoutAfterPollLimit := by
  intro s paddr len framecount code free hidle hlc hlong hmax hframing hin hwrite hlimit hpolls
  have hwait : 0 < transmitWaits s.cfg.params len.toNat := (lt_transmitWaits_iff s.cfg _ 0).mpr (by omega)
  have hshort : tooShort s.cfg.params free = true := by
    refine List.all_eq_true.mpr fun b hb => decide_eq_true ?_
    obtain ⟨n, hn⟩ := List.mem_iff_getElem?.mp hb
    obtain ⟨_, hless⟩ := hpolls n b hn
    exact hless
  refine laterWaitTimesOutOnItsOwnPolls s paddr len framecount code [] free _ hidle hlc ?_ hmax hframing hin hwait nofun
    hlimit hshort rfl ?_
  · rintro rfl
    simp at hlong
  · refine State.answersAs_append.mpr ⟨State.answersAs_singleton hwrite, State.answersAs_pollEvents fun n b hb => ?_⟩
    obtain ⟨hpoll, _⟩ := hpolls n b hb
    exact (s.answerAt_transact _ _ n).trans hpoll

/-- Settles O34: O38 with no wait, since the FIFO takes the whole payload. -/
theorem shortTransmitIsOneWriteAndStart : Obligations.ShortTransmitIsOneWriteAndStart := by
  intro s paddr len framecount code hidle hlc hlen hmax hframing hin hfits hwrite hstart
  have hwaits : transmitWaits s.cfg.params len.toNat = 0 := by
    have hnone := (lt_transmitWaits_iff s.cfg len.toNat 0).not.mpr (by omega)
    omega
  have hwhole : firstChunk s.cfg.params (s.payload paddr len) = s.payload paddr len :=
    List.take_of_length_le (by rwa [State.payload_length])
  refine shortPollsAreCountedPerWait s paddr len framecount code [] _ hidle hlc hlen hmax hframing hin hwaits.symm nofun
    ?_ ?_
  · rw [streamEvents_nil, hwhole]
    rfl
  · exact State.answersAs_concat (State.answersAs_singleton hwrite) hstart

end Sys2Proof.Machine
end

section
/-!
PROOF. What a TRANSMIT has written to the FIFO at each of its positions (44_fifo_transmit.md rules R203 to R208): the initial
chunk and the later ones in order, so that at the start-transmit the writes are the payload.
-/

namespace Sys2Proof.Machine

/-! ### The writes of a stretch of the trace -/

@[simp] theorem fifoWrites_append (before after : List Event) :
    fifoWrites (before ++ after) = fifoWrites before ++ fifoWrites after := List.filterMap_append

@[simp] theorem fifoWrites_write (bytes : List Byte) (answer : Response) :
    fifoWrites [⟨.writeFifo bytes, answer⟩] = [bytes] := rfl

@[simp] theorem fifoWrites_poll (answer : Response) : fifoWrites [⟨.readFifoFreeSpace, answer⟩] = [] := rfl

@[simp] theorem fifoWrites_start (job : TxJob) (u : State) (answer : Response) :
    fifoWrites [⟨startTransmit job u, answer⟩] = [] := rfl

/-! ### The chunks of a payload -/

/-- What is written after the initial write and `k` chunks. -/
def writtenAfter (p : Params) (payload : List Byte) (k : Nat) : List (List Byte) :=
  firstChunk p payload :: (List.range k).map (laterChunk p payload)

theorem writtenAfter_succ (p : Params) (payload : List Byte) (k : Nat) :
    writtenAfter p payload (k + 1) = writtenAfter p payload k ++ [laterChunk p payload k] := by
  simp [writtenAfter, List.range_succ]

/-- The writes together are the payload as far as it is written: no byte is lost and none comes twice. -/
theorem flatten_writtenAfter (p : Params) (payload : List Byte) (k : Nat) :
    (writtenAfter p payload k).flatten = payload.take (p.fifoCapacity + k * p.chunkSize) := by
  induction k with
  | zero => simp [writtenAfter, firstChunk]
  | succ k ih =>
    rw [writtenAfter_succ, List.flatten_append, ih, List.flatten_singleton, laterChunk, ← List.take_add, Nat.succ_mul,
      Nat.add_assoc]

theorem length_laterChunk (p : Params) (payload : List Byte) (k : Nat) :
    (laterChunk p payload k).length = min p.chunkSize (payload.length - (p.fifoCapacity + k * p.chunkSize)) := by
  rw [laterChunk, List.length_take, List.length_drop]

theorem length_laterChunk_bounds (c : Config) {payload : List Byte} {k : Nat}
    (hk : k < transmitWaits c.params payload.length) :
    1 ≤ (laterChunk c.params payload k).length ∧ (laterChunk c.params payload k).length ≤ c.params.chunkSize := by
  have hchunk := c.chunkSize_pos
  have hlt := (lt_transmitWaits_iff c payload.length k).mp hk
  rw [length_laterChunk]
  omega

/-- A chunk that another one follows is a full one. -/
theorem length_laterChunk_of_not_last (c : Config) {payload : List Byte} {k : Nat}
    (hk : k + 1 < transmitWaits c.params payload.length) :
    (laterChunk c.params payload k).length = c.params.chunkSize := by
  have hlt := (lt_transmitWaits_iff c payload.length (k + 1)).mp hk
  rw [Nat.succ_mul] at hlt
  rw [length_laterChunk]
  omega

/-- All the writes of a TRANSMIT together. -/
theorem flatten_writtenAfter_transmitWaits (c : Config) (payload : List Byte) :
    (writtenAfter c.params payload (transmitWaits c.params payload.length)).flatten = payload := by
  have hend := (lt_transmitWaits_iff c payload.length _).not.mp (Nat.lt_irrefl _)
  rw [flatten_writtenAfter]
  exact List.take_of_length_le (Nat.not_lt.mp hend)

theorem mem_chunks_bounds (c : Config) {payload chunk : List Byte}
    (h : chunk ∈ (List.range (transmitWaits c.params payload.length)).map (laterChunk c.params payload)) :
    1 ≤ chunk.length ∧ chunk.length ≤ c.params.chunkSize := by
  obtain ⟨k, hk, rfl⟩ := List.mem_map.mp h
  exact length_laterChunk_bounds c (List.mem_range.mp hk)

theorem length_of_mem_dropLast_chunks (c : Config) {payload chunk : List Byte}
    (h : chunk ∈ ((List.range (transmitWaits c.params payload.length)).map (laterChunk c.params payload)).dropLast) :
    chunk.length = c.params.chunkSize := by
  rw [← List.map_dropLast, List.dropLast_eq_take, List.take_range, List.length_range] at h
  obtain ⟨k, hk, rfl⟩ := List.mem_map.mp h
  have hlt := List.mem_range.mp hk
  exact length_laterChunk_of_not_last c (by omega)

/-! ### What is written at each position -/

/-- The writes with which the TRANSMIT of `job` comes to a position. -/
inductive WrittenAt (p : Params) (payload : List Byte) (job : TxJob) : Sequencer → List (List Byte) → Prop where
  | first : WrittenAt p payload job (.txFirst job) []
  | poll (k polls : Nat) (hk : k < transmitWaits p job.len.toNat) :
      WrittenAt p payload job (.txPoll job (sentAfter p job.len.toNat k) polls) (writtenAfter p payload k)
  | chunk (k : Nat) (hk : k < transmitWaits p job.len.toNat) :
      WrittenAt p payload job (.txChunk job (sentAfter p job.len.toNat k)) (writtenAfter p payload k)
  | start : WrittenAt p payload job (.txStart job) (writtenAfter p payload (transmitWaits p job.len.toNat))

theorem writtenAt_transmitLoop {u : State} {job : TxJob} {k : Nat} (hk : k ≤ transmitWaits u.cfg.params job.len.toNat)
    (payload : List Byte) :
    WrittenAt u.cfg.params payload job (transmitLoop job (sentAfter u.cfg.params job.len.toNat k) u).seq
      (writtenAfter u.cfg.params payload k) := by
  obtain hlt | rfl := Nat.lt_or_eq_of_le hk
  · rw [transmitLoop_of_lt hlt]
    exact .poll k 0 hlt
  · rw [transmitLoop_of_end]
    exact .start

/-- How far the TRANSMIT of `job` that began in `s` has come in `u`, and what it has written. -/
inductive StreamAt (job : TxJob) (s u : State) : Prop where
  | running (events : List Event) (htrace : u.trace = s.trace ++ events) (hquiet : startsTransmission events = false)
      (hwritten : WrittenAt u.cfg.params (u.payload job.paddr job.len) job u.seq (fifoWrites events))
  | ended (events : List Event) (hidle : u.seq = .idle) (htrace : u.trace = s.trace ++ events)
      (hwritten : startsTransmission events = true → fifoWrites events =
        writtenAfter u.cfg.params (u.payload job.paddr job.len) (transmitWaits u.cfg.params job.len.toNat))

section
variable {job : TxJob} {s u v : State} {events : List Event}

/-- A transaction that is no start-transmit and ends the operation leaves it without one. -/
theorem streamAt_of_quiet_end {tx : Transaction} {st : Status} (htrace : u.trace = s.trace ++ events)
    (hquiet : startsTransmission events = false) (htx : tx.isStartTx = false) :
    StreamAt job s ((u.transact tx).raise st) :=
  .ended _ rfl (transact_trace_append htrace tx) (by simp [hquiet, htx])

/-- A write that brings what is written to the `k`-th chunk. -/
theorem streamAt_advanceWrite {sent n k : Nat} (htrace : u.trace = s.trace ++ events)
    (hquiet : startsTransmission events = false) (hk : k ≤ transmitWaits u.cfg.params job.len.toNat)
    (hsent : sent + n = sentAfter u.cfg.params job.len.toNat k)
    (hwritten : fifoWrites events ++ [u.pmem.bytes (job.paddr.toNat + sent) n] =
      writtenAfter u.cfg.params (u.payload job.paddr job.len) k)
    (ha : advanceWrite job sent n u = .next v) : StreamAt job s v := by
  obtain ⟨_, heq⟩ | ⟨_, ⟨_, heq⟩ | ⟨_, _, heq⟩⟩ := advanceWrite_cases job sent n u <;> rw [heq] at ha <;> cases ha
  · exact streamAt_of_quiet_end htrace hquiet rfl
  · have hloop := writtenAt_transmitLoop
      (u := u.transact (.writeFifo (u.pmem.bytes (job.paddr.toNat + sent) n))) hk (u.payload job.paddr job.len)
    obtain ⟨q, _, heq⟩ := transmitLoop_eq_setSeq job (sent + n)
      (u.transact (.writeFifo (u.pmem.bytes (job.paddr.toNat + sent) n)))
    rw [State.transact_cfg, ← hsent, ← hwritten, heq] at hloop
    rw [heq]
    refine .running _ (transact_trace_append htrace _) (by simp [hquiet, Transaction.isStartTx]) ?_
    rw [fifoWrites_append, fifoWrites_write]
    exact hloop

/-- Every transaction of a running TRANSMIT keeps its writes those of its position. -/
theorem streamAt_advance (hbusy : u.seq ≠ .idle) (h : StreamAt job s u) (ha : advance u = .next v) :
    StreamAt job s v := by
  cases h with
  | ended _ hidle _ _ => exact absurd hidle hbusy
  | running events htrace hquiet hwritten =>
    unfold advance at ha
    generalize hseq : u.seq = q, hwrites : fifoWrites events = writes at hwritten
    cases hwritten with
    | first =>
      simp only [hseq] at ha
      refine streamAt_advanceWrite htrace hquiet (Nat.zero_le _) (by rw [sentAfter_zero, Nat.zero_add]) ?_ ha
      rw [hwrites, List.nil_append, Nat.add_zero, ← firstChunk_payload]
      rfl
    | chunk k hk =>
      simp only [hseq] at ha
      refine streamAt_advanceWrite htrace hquiet hk (sentAfter_succ _ _ _).symm ?_ ha
      rw [hwrites, ← laterChunk_payload u job.paddr hk, ← writtenAfter_succ]
    | poll k polls hk =>
      simp only [hseq] at ha
      cases ha
      have htrace' := transact_trace_append htrace .readFifoFreeSpace
      obtain ⟨_, heq⟩ | ⟨_, _, ⟨_, heq⟩ | ⟨_, _, heq⟩ | ⟨_, _, heq⟩⟩ := advancePoll_cases job _ polls u <;> rw [heq]
      · exact streamAt_of_quiet_end htrace hquiet rfl
      · refine .running _ htrace' (by simp [hquiet, Transaction.isStartTx]) ?_
        rw [fifoWrites_append, fifoWrites_poll, List.append_nil, hwrites]
        exact .chunk k hk
      · exact streamAt_of_quiet_end htrace hquiet rfl
      · refine .running _ htrace' (by simp [hquiet, Transaction.isStartTx]) ?_
        rw [fifoWrites_append, fifoWrites_poll, List.append_nil, hwrites]
        exact .poll k (polls + 1) hk
    | start =>
      simp only [hseq] at ha
      cases ha
      have hends {st : Status} : StreamAt job s ((u.transact (startTransmit job u)).raise st) := by
        refine .ended _ rfl (transact_trace_append htrace _) fun _ => ?_
        rw [fifoWrites_append, fifoWrites_start, List.append_nil, hwrites]
        rfl
      obtain ⟨_, heq⟩ | ⟨_, _, heq⟩ := advanceStart_cases job u <;> rw [heq]
      · exact hends
      · exact hends

end

/-! ### The whole operation -/

/-- A TRANSMIT that has issued anything passed its checks. -/
theorem exec_transmit_passed {s t : State} {paddr : BitVec 24} {len framecount : BitVec 16}
    (h : exec (.transmit paddr len framecount) s = .next t) (hgrown : t.trace ≠ s.trace) :
    ∃ code, runToEnd (s.setSeq (.txFirst ⟨paddr, len, code⟩)) = .next t := by
  obtain ⟨_, ⟨st, _, rfl⟩ | ⟨_, hrun⟩⟩ := exec_cases h
  · exact absurd rfl hgrown
  · rw [startOf] at hrun
    obtain ⟨hidle, hsame⟩ | ⟨f, _, hstart⟩ := startTransmitOperation_starts paddr len framecount s
    · rw [runToEnd_of_idle hidle] at hrun
      cases hrun
      exact absurd hsame hgrown
    · exact ⟨framingCode f, hstart ▸ hrun⟩

/-- The writes of a TRANSMIT that reaches the start-transmit are all its chunks. -/
theorem exec_transmit_writes {s t : State} {paddr : BitVec 24} {len framecount : BitVec 16} {events : List Event}
    (h : exec (.transmit paddr len framecount) s = .next t) (htrace : t.trace = s.trace ++ events)
    (hstarts : startsTransmission events = true) :
    fifoWrites events =
      writtenAfter s.cfg.params (s.payload paddr len) (transmitWaits s.cfg.params len.toNat) := by
  have hgrown : t.trace ≠ s.trace := by
    rintro hsame
    obtain rfl : events = [] := by simpa [htrace] using hsame
    cases hstarts
  obtain ⟨hframe, hidle⟩ := exec_runFrame h
  obtain ⟨code, hrun⟩ := exec_transmit_passed h hgrown
  have hstart : StreamAt ⟨paddr, len, code⟩ s (s.setSeq (.txFirst ⟨paddr, len, code⟩)) :=
    .running [] (by simp) rfl .first
  cases runToEnd_keeps (fun _ _ => streamAt_advance) hstart hrun with
  | running _ _ _ hwritten => rw [hidle] at hwritten; cases hwritten
  | ended issued _ hissued hwritten =>
    obtain rfl : issued = events := List.append_cancel_left (hissued.symm.trans htrace)
    rw [hwritten hstarts, hframe.cfg, State.payload_eq_bytes, hframe.pmem, State.payload_eq_bytes]

/-- Settles O36: the writes are `writtenAfter` all the waits, whose chunks the lemmas above count and measure. -/
theorem transmitWritesCarryThePayload : Obligations.TransmitWritesCarryThePayload := by
  intro s t paddr len framecount events h htrace hstarts
  have hlen := s.payload_length paddr len
  rw [exec_transmit_writes h htrace hstarts, ← hlen]
  refine ⟨flatten_writtenAfter_transmitWaits s.cfg _, by simp [writtenAfter, Nat.add_comm], _, _, rfl, ?_,
    fun c hc => mem_chunks_bounds s.cfg hc, fun c hc => length_of_mem_dropLast_chunks s.cfg hc⟩
  rw [firstChunk, List.length_take, Nat.min_comm]

end Sys2Proof.Machine
end

section
/-!
PROOF. A TRANSMIT whose every first poll reports enough space (44_fifo_transmit.md rules R203 to R207): O38 with waits of one
poll each, and which event stands in which slot.
-/

namespace Sys2Proof.Machine

/-- A wait whose first poll reports enough. -/
def promptWait (enough : Byte) : Wait := ⟨[], enough⟩

theorem promptWait_wf (c : Config) {b : Byte} (hb : c.params.chunkSize ≤ b.toNat) : (promptWait b).wf c.params = true :=
  Wait.wf_iff.mpr ⟨c.pollLimit_pos, rfl, hb⟩

/-- What exists for every index below `n` can be listed. -/
theorem exists_list_of_forall_lt {α : Type} {P : Nat → α → Prop} {n : Nat} (h : ∀ j, j < n → ∃ a, P j a) :
    ∃ values : List α, values.length = n ∧ ∀ j a, values[j]? = some a → P j a := by
  choose value hvalue using h
  refine ⟨List.ofFn fun j : Fin n => value j j.isLt, List.length_ofFn, fun j a ha => ?_⟩
  obtain ⟨_, rfl⟩ := List.getElem?_eq_some_iff.mp ha
  rw [List.getElem_ofFn]
  exact hvalue j _

section
variable {p : Params} {payload : List Byte}

/-! ### The slots of the waits -/

theorem waitsEvents_promptWait_cons (k : Nat) (b : Byte) (rest : List Byte) :
    waitsEvents p payload k ((b :: rest).map promptWait) =
      pollEvent b :: writeEvent (laterChunk p payload k) :: waitsEvents p payload (k + 1) (rest.map promptWait) := rfl

@[simp] theorem length_waitsEvents_promptWait (k : Nat) (free : List Byte) :
    (waitsEvents p payload k (free.map promptWait)).length = 2 * free.length := by
  induction free generalizing k with
  | nil => rfl
  | cons b rest ih =>
    rw [waitsEvents_promptWait_cons, List.length_cons, List.length_cons, ih, List.length_cons]
    omega

theorem waitsEvents_promptWait_poll (k : Nat) (free : List Byte) (j : Nat) :
    (waitsEvents p payload k (free.map promptWait))[2 * j]? = free[j]?.map pollEvent := by
  induction free generalizing k j with
  | nil => rfl
  | cons b rest ih =>
    cases j with
    | zero => rfl
    | succ j => exact ih (k + 1) j

theorem waitsEvents_promptWait_write (k : Nat) (free : List Byte) (j : Nat) :
    (waitsEvents p payload k (free.map promptWait))[2 * j + 1]? =
      free[j]?.map fun _ => writeEvent (laterChunk p payload (k + j)) := by
  induction free generalizing k j with
  | nil => rfl
  | cons b rest ih =>
    cases j with
    | zero => rfl
    | succ j =>
      rw [Nat.add_comm j 1, ← Nat.add_assoc, Nat.add_comm 1 j]
      exact ih (k + 1) j

end

/-! ### The answers -/

/-- Writes that succeed in the even slots, and polls that report `free` in the odd ones. -/
theorem answersAs_streamEvents_promptWait {s : State} {free payload : List Byte}
    (hwrites : ∀ (j : Nat) (bytes : List Byte), j ≤ free.length → s.answerAt (2 * j) (.writeFifo bytes) = .ok [])
    (hpolls : ∀ (j : Nat) (b : Byte), free[j]? = some b → s.answerAt (2 * j + 1) .readFifoFreeSpace = .ok [b]) :
    s.answersAs (streamEvents s.cfg.params payload (free.map promptWait)) := by
  intro n e he
  cases n with
  | zero =>
    cases he
    exact hwrites 0 _ (Nat.zero_le _)
  | succ n =>
    rw [streamEvents, List.getElem?_cons_succ] at he
    obtain ⟨j, rfl | rfl⟩ := Nat.even_or_odd' n
    · rw [waitsEvents_promptWait_poll, Option.map_eq_some_iff] at he
      obtain ⟨b, hb, rfl⟩ := he
      exact hpolls j b hb
    · rw [waitsEvents_promptWait_write, Option.map_eq_some_iff] at he
      obtain ⟨b, hb, rfl⟩ := he
      obtain ⟨hj, _⟩ := List.getElem?_eq_some_iff.mp hb
      exact hwrites (j + 1) _ hj

/-- Settles O35: O38 gives the run, the slots are those of `waitsEvents`, and O36 says that the writes are the payload. -/
theorem transmitCompletesWhenSpaceIsReported : Obligations.TransmitCompletesWhenSpaceIsReported := by
  intro s paddr len framecount code hidle hlc hlen hmax hframing hin hwrites hpolls hstart
  obtain ⟨free, hlength, hfree⟩ := exists_list_of_forall_lt hpolls
  rw [← hlength] at hwrites hstart ⊢
  have hreport : ∀ (j : Nat) (b : Byte), free[j]? = some b → s.answerAt (2 * j + 1) .readFifoFreeSpace = .ok [b] :=
    fun j b hb => (hfree j b hb).1
  have hwf : ∀ w ∈ free.map promptWait, w.wf s.cfg.params = true := by
    intro w hw
    obtain ⟨b, hb, rfl⟩ := List.mem_map.mp hw
    obtain ⟨j, hj⟩ := List.mem_iff_getElem?.mp hb
    obtain ⟨_, hspace⟩ := hfree j b hj
    exact promptWait_wf s.cfg hspace
  have hstream : s.answersAs (streamEvents s.cfg.params (s.payload paddr len) (free.map promptWait)) :=
    answersAs_streamEvents_promptWait hwrites hreport
  have hslots : (streamEvents s.cfg.params (s.payload paddr len) (free.map promptWait)).length = 2 * free.length + 1 := by
    simp [streamEvents]
  have hrun := shortPollsAreCountedPerWait s paddr len framecount code (free.map promptWait) _ hidle hlc hlen hmax hframing
    hin (by rw [List.length_map, hlength]) hwf rfl (State.answersAs_concat hstream (by rwa [hslots]))
  refine ⟨_, hrun, ?_, rfl, fun j hj => ⟨?_, ?_⟩, ?_, ?_⟩
  · rw [List.length_append, hslots, List.length_singleton]
    omega
  · have hb := List.getElem?_eq_getElem hj
    rw [List.getElem?_append_left (by omega), streamEvents, List.getElem?_cons_succ, waitsEvents_promptWait_poll, hb,
      hreport j _ hb]
    rfl
  · rw [List.getElem?_append_left (by omega), streamEvents, List.getElem?_cons_succ, waitsEvents_promptWait_write,
      List.getElem?_eq_getElem hj, Nat.zero_add]
    rfl
  · rw [← hslots, List.getElem?_concat_length]
  · obtain ⟨hpayload, _⟩ :=
      transmitWritesCarryThePayload s _ paddr len framecount _ hrun rfl (by simp [Transaction.isStartTx])
    exact hpayload

end Sys2Proof.Machine
end

section
/-!
PROOF. Every operation ends (70_reset_and_hazards.md rules R270, R271): from every idle state, whatever else it holds, no
transaction of the operation can fault, and its transactions are bounded by what its start can still take.
-/

namespace Sys2Proof.Machine

/-! ### No transaction faults -/

/-- How much of the payload is written at a position of a TRANSMIT that has still to write. -/
def Sequencer.sent : Sequencer → Nat
  | .txPoll _ sent _ => sent
  | .txChunk _ sent => sent
  | _ => 0

/-- A running TRANSMIT borrows a payload that lies inside PMEM, and has not written past it. -/
def PayloadInside (u : State) : Prop :=
  ∀ job, u.seq.job? = some job → job.paddr.toNat + job.len.toNat ≤ pmemSize ∧ u.seq.sent ≤ job.len.toNat

theorem payloadInside_of_no_job {u : State} (h : u.seq.job? = none) : PayloadInside u := by
  intro job hjob
  rw [h] at hjob
  cases hjob

theorem payloadInside_setSeq (u : State) {v : Sequencer} {job : TxJob} (hjob : v.job? = some job)
    (hin : job.paddr.toNat + job.len.toNat ≤ pmemSize) (hsent : v.sent ≤ job.len.toNat) :
    PayloadInside (u.setSeq v) := by
  intro job' hjob'
  obtain rfl : job = job' := Option.some.inj (hjob.symm.trans hjob')
  exact ⟨hin, hsent⟩

section
variable {u : State} {job : TxJob}

@[simp] theorem loadFrom_trace (i : Nat) (u : State) : (loadFrom i u).trace = u.trace := by
  obtain ⟨_, heq⟩ | ⟨_, heq⟩ := loadFrom_cases i u <;> rw [heq] <;> rfl

theorem payloadInside_loadFrom (i : Nat) (u : State) : PayloadInside (loadFrom i u) := by
  obtain ⟨_, heq⟩ | ⟨_, heq⟩ := loadFrom_cases i u <;> rw [heq] <;> exact payloadInside_of_no_job rfl

/-- A FIFO write inside the payload can be taken. -/
theorem advanceWrite_payloadInside {sent n : Nat} (hin : job.paddr.toNat + job.len.toNat ≤ pmemSize)
    (hend : sent + n ≤ job.len.toNat) : ∃ v, advanceWrite job sent n u = .next v ∧ PayloadInside v := by
  obtain ⟨hout, _⟩ | ⟨_, ⟨_, heq⟩ | ⟨_, _, heq⟩⟩ := advanceWrite_cases job sent n u
  · omega
  · exact ⟨_, heq, payloadInside_of_no_job rfl⟩
  · refine ⟨_, heq, ?_⟩
    obtain ⟨_, hloop⟩ | ⟨_, hloop⟩ := transmitLoop_cases job (sent + n)
      (u.transact (.writeFifo (u.pmem.bytes (job.paddr.toNat + sent) n))) <;> rw [hloop]
    · exact payloadInside_setSeq _ rfl hin hend
    · exact payloadInside_setSeq _ rfl hin (Nat.zero_le _)

theorem advancePoll_payloadInside {sent : Nat} (polls : Nat) (hin : job.paddr.toNat + job.len.toNat ≤ pmemSize)
    (hsent : sent ≤ job.len.toNat) : PayloadInside (advancePoll job sent polls u) := by
  obtain ⟨_, heq⟩ | ⟨_, _, ⟨_, heq⟩ | ⟨_, _, heq⟩ | ⟨_, _, heq⟩⟩ := advancePoll_cases job sent polls u <;> rw [heq]
  · exact payloadInside_of_no_job rfl
  · exact payloadInside_setSeq _ rfl hin hsent
  · exact payloadInside_of_no_job rfl
  · exact payloadInside_setSeq _ rfl hin hsent

/-- With the payload inside PMEM the next transaction can be taken, and the payload stays inside. -/
theorem advance_payloadInside (h : PayloadInside u) : ∃ v, advance u = .next v ∧ PayloadInside v := by
  unfold advance
  cases hs : u.seq with
  | idle => exact ⟨u, rfl, h⟩
  | reset =>
    refine ⟨_, rfl, ?_⟩
    obtain ⟨_, heq⟩ | ⟨_, _, heq⟩ := advanceReset_cases u <;> rw [heq] <;> exact payloadInside_of_no_job rfl
  | configure i =>
    refine ⟨_, rfl, ?_⟩
    obtain ⟨_, heq⟩ | ⟨_, _, ⟨_, heq⟩ | ⟨_, _, heq⟩⟩ := advanceConfigure_cases i u <;> rw [heq]
    · exact payloadInside_of_no_job rfl
    · exact payloadInside_of_no_job rfl
    · exact payloadInside_loadFrom (i + 1) _
  | verify =>
    refine ⟨_, rfl, ?_⟩
    obtain ⟨_, heq⟩ | ⟨_, _, ⟨_, heq⟩ | ⟨_, heq⟩⟩ := advanceVerify_cases u <;> rw [heq] <;>
      exact payloadInside_of_no_job rfl
  | property group offset bytes =>
    refine ⟨_, rfl, ?_⟩
    obtain ⟨_, heq⟩ | ⟨_, _, heq⟩ := advanceProperty_cases group offset bytes u <;> rw [heq] <;>
      exact payloadInside_of_no_job rfl
  | dataRateRead bps =>
    refine ⟨_, rfl, ?_⟩
    obtain ⟨_, heq⟩ | ⟨_, _, ⟨_, heq⟩ | ⟨_, heq⟩⟩ := advanceDataRateRead_cases bps u <;> rw [heq] <;>
      exact payloadInside_of_no_job rfl
  | dataRateWrite bps r =>
    refine ⟨_, rfl, ?_⟩
    obtain ⟨_, heq⟩ | ⟨_, _, heq⟩ := advanceDataRateWrite_cases bps r u <;> rw [heq] <;>
      exact payloadInside_of_no_job rfl
  | txFirst job =>
    obtain ⟨hin, _⟩ := h job (congrArg Sequencer.job? hs)
    exact advanceWrite_payloadInside hin (by rw [firstWriteSize]; omega)
  | txPoll job sent polls =>
    obtain ⟨hin, hsent⟩ := h job (congrArg Sequencer.job? hs)
    rw [hs] at hsent
    exact ⟨_, rfl, advancePoll_payloadInside polls hin hsent⟩
  | txChunk job sent =>
    obtain ⟨hin, hsent⟩ := h job (congrArg Sequencer.job? hs)
    rw [hs, Sequencer.sent] at hsent
    exact advanceWrite_payloadInside hin (by rw [chunkWriteSize]; omega)
  | txStart job =>
    refine ⟨_, rfl, ?_⟩
    obtain ⟨_, heq⟩ | ⟨_, _, heq⟩ := advanceStart_cases job u <;> rw [heq] <;> exact payloadInside_of_no_job rfl

end

/-! ### The start of an operation -/

/-- What holds of the start of an operation: the payload of a TRANSMIT lies inside PMEM, nothing has been issued, and no more
than the bound of rule R270 can be. -/
structure StartsWithin (i : Instr) (s u : State) : Prop where
  inside : PayloadInside u
  trace : u.trace = s.trace
  bound : remaining u ≤ transactionBound s.cfg.params i

theorem startsWithin_of_ended {i : Instr} {s u : State} (hidle : u.seq = .idle) (htrace : u.trace = s.trace) :
    StartsWithin i s u :=
  ⟨payloadInside_of_no_job (congrArg Sequencer.job? hidle), htrace, (remaining_of_idle hidle).trans_le (Nat.zero_le _)⟩

/-- What a TRANSMIT past its checks can take is the bound of rule R209. -/
theorem startsWithin_txFirst {s : State} {paddr : BitVec 24} {len : BitVec 16} (framecount code : BitVec 16)
    (hin : paddr.toNat + len.toNat ≤ pmemSize) :
    StartsWithin (.transmit paddr len framecount) s (s.setSeq (.txFirst ⟨paddr, len, code⟩)) := by
  refine ⟨payloadInside_setSeq s rfl hin (Nat.zero_le _), rfl, ?_⟩
  simp only [remaining, State.setSeq_seq, State.setSeq_cfg, transmitRest, waits, firstWriteSize, transactionBound,
    transmitWaits]
  omega

theorem startOf_startsWithin (i : Instr) (s : State) : StartsWithin i s (startOf i s) := by
  cases i with
  | reset => exact ⟨payloadInside_of_no_job rfl, rfl, le_rfl⟩
  | configure => exact ⟨payloadInside_loadFrom 0 s, loadFrom_trace 0 s, remaining_loadFrom 0 s⟩
  | verify => exact ⟨payloadInside_of_no_job rfl, rfl, le_rfl⟩
  | setFrequency channel => exact startsWithin_of_ended rfl rfl
  | setDataRate bps => exact ⟨payloadInside_of_no_job rfl, rfl, le_rfl⟩
  | setPower level => exact ⟨payloadInside_of_no_job rfl, rfl, le_rfl⟩
  | applyFrequency freqHz adj =>
    obtain ⟨_, heq⟩ | ⟨_, _, heq⟩ := startApplyFrequency_cases freqHz adj s <;> rw [startOf, heq]
    · exact startsWithin_of_ended rfl rfl
    · exact ⟨payloadInside_of_no_job rfl, rfl, le_rfl⟩
  | setModulation mode =>
    obtain ⟨_, heq⟩ | ⟨_, _, heq⟩ := startSetModulation_cases mode s <;> rw [startOf, heq]
    · exact startsWithin_of_ended rfl rfl
    · exact ⟨payloadInside_of_no_job rfl, rfl, le_rfl⟩
  | adjustCrystal adj =>
    obtain ⟨_, heq⟩ | ⟨_, _, heq⟩ := startAdjustCrystal_cases adj s <;> rw [startOf, heq]
    · exact startsWithin_of_ended rfl rfl
    · exact ⟨payloadInside_of_no_job rfl, rfl, le_rfl⟩
  | transmit paddr len framecount =>
    obtain ⟨_, heq⟩ | ⟨_, _, heq⟩ | ⟨_, _, _, heq⟩ | ⟨_, _, _, _, ⟨_, heq⟩ | ⟨hin, heq⟩⟩ :=
      startTransmitOperation_cases paddr len framecount s <;> rw [startOf, heq]
    · exact startsWithin_of_ended rfl rfl
    · exact startsWithin_of_ended rfl rfl
    · exact startsWithin_of_ended rfl rfl
    · exact startsWithin_of_ended rfl rfl
    · exact startsWithin_txFirst framecount _ hin

/-! ### The whole operation -/

/-- Every transaction takes one from what the operation can still take, and so does the trace grow. -/
theorem advance_trace_length {u v : State} {n : Nat} (hbusy : u.seq ≠ .idle) (h : u.trace.length + remaining u ≤ n)
    (ha : advance u = .next v) : v.trace.length + remaining v ≤ n := by
  have hlt := advance_remaining hbusy ha
  have hgrown : v.trace.length ≤ u.trace.length + 1 := by
    obtain htrace | ⟨tx, htrace⟩ := (advance_untouched ha).trace <;> simp [htrace]
  omega

theorem runToEnd_trace_length {u v : State} (h : runToEnd u = .next v) :
    v.trace.length ≤ u.trace.length + remaining u := by
  have hend : v.trace.length + remaining v ≤ u.trace.length + remaining u :=
    runToEnd_keeps (P := fun w => w.trace.length + remaining w ≤ u.trace.length + remaining u)
      (fun _ _ => advance_trace_length) le_rfl h
  omega

/-- Settles O45: a guarded-out operation issues nothing, and one that runs starts with its payload inside PMEM. -/
theorem everyOperationEnds : Obligations.EveryOperationEnds := by
  intro i s hidle
  have hends : ∃ t, exec i s = .next t ∧ t.trace.length ≤ s.trace.length + transactionBound s.cfg.params i := by
    cases hguard : lifecycleGuard (guardClassOf i) s.lc with
    | some st => exact ⟨_, exec_guarded hidle hguard, Nat.le_add_right _ _⟩
    | none =>
      obtain ⟨hinside, htrace, hbound⟩ := startOf_startsWithin i s
      obtain ⟨t, hrun, _, _⟩ := runToEnd_ends (fun _ _ => advance_payloadInside) hinside
      have hlength := runToEnd_trace_length hrun
      rw [htrace] at hlength
      exact ⟨t, (exec_runs hidle hguard).trans hrun, by omega⟩
  obtain ⟨t, hexec, hlength⟩ := hends
  obtain ⟨hframe, hended⟩ := exec_runFrame hexec
  obtain ⟨events, htrace, _⟩ := hframe.events
  rw [htrace, List.length_append] at hlength
  exact ⟨t, events, hexec, hended, htrace, by omega⟩

end Sys2Proof.Machine
end

section
/-!
PROOF. The statuses of 60_exceptions.md rule R231: those of an operation past its guard, and those of the guard, which every
operation but RESET has in its row. An idle block with no word.
-/

namespace Sys2Proof.Machine

theorem statusesPastGuard_subset (i : Instr) : statusesPastGuard i ⊆ possibleStatuses i :=
  fun _ => List.mem_of_mem_filter

theorem guard_mem_possibleStatuses {i : Instr} (hi : i ≠ .reset) :
    .notReady ∈ possibleStatuses i ∧ .halted ∈ possibleStatuses i := by
  cases i with
  | reset => exact absurd rfl hi
  | _ => simp [possibleStatuses]

theorem State.guardedOut_status (s : State) :
    s.guardedOut.status = if s.lc = .halted then .halted else .notReady := rfl

theorem guardedOut_status_mem {i : Instr} {s : State} (hrun : mayRun i s.lc = false) :
    s.guardedOut.status ∈ possibleStatuses i := by
  have hi : i ≠ .reset := by
    rintro rfl
    cases hrun
  obtain ⟨hnotReady, hhalted⟩ := guard_mem_possibleStatuses hi
  rw [s.guardedOut_status]
  split
  · exact hhalted
  · exact hnotReady

/-- Settles O42: an operation ends past its guard (`exec_status_of_mayRun`) or at its guard (`exec_of_not_mayRun`). -/
theorem operationStatuses : Obligations.OperationStatuses := by
  intro i s t h
  cases hrun : mayRun i s.lc with
  | true => exact statusesPastGuard_subset i (exec_status_of_mayRun hrun h)
  | false =>
    obtain ⟨hidle, _⟩ := exec_cases h
    rw [exec_of_not_mayRun hidle hrun] at h
    cases h
    exact guardedOut_status_mem hrun

/-- Settles O10. -/
theorem idleBlockKeepsAllState : Obligations.IdleBlockKeepsAllState := fun _ => step_of_no_word

end Sys2Proof.Machine
end

section
/-!
PROOF. 70_reset_and_hazards.md: an operation on a block that is still running another (rule R264).
-/

namespace Sys2Proof.Machine

/-- The branch of `runOperation` beside `runOperation_guarded` and `runOperation_runs`. -/
theorem runOperation_of_busy {g : GuardClass} {body : State → State} {s : State} (hbusy : s.seq ≠ .idle) :
    runOperation g body s = .refused .issuedWhileBusy := by
  unfold runOperation
  split
  next hidle => exact absurd hidle hbusy
  next => rfl

/-- Settles O14: every operation is a `runOperation`, which looks at the lifecycle and the operands of an idle block only. -/
theorem busyBlockTakesNoOperation : Obligations.BusyBlockTakesNoOperation := by
  intro s i hbusy
  rw [exec_eq_runOperation]
  exact runOperation_of_busy hbusy

end Sys2Proof.Machine
end
